-- ==== Sys2Proof/Word.lean ====
section
/-! DEFINITION. The plainest types of TDL40: the 64-bit word, the trit (00_scope.md R2, R3), the two-digit result of a
digit operation, and the 40-trit vector (00_scope.md R4) with the reading and building of one trit at a time. -/

namespace Sys2Proof

/-- A 64-bit word: a host access's data, the register X, a command word (10_state.md R25, R26). -/
abbrev Word := BitVec 64

/-- One balanced-ternary digit: Neg = -1, Zero = 0, Pos = +1 (00_scope.md R2). -/
inductive Trit where
  | neg
  | zero
  | pos
deriving DecidableEq, Repr

/-- The three trits, in the order Neg < Zero < Pos (00_scope.md R3). -/
def Trit.all : List Trit := [.neg, .zero, .pos]

/-- The integer a trit stands for (00_scope.md R2). -/
def Trit.toInt : Trit → Int
  | .neg => -1
  | .zero => 0
  | .pos => 1

/-- The two-digit result of a digit operation, the source's "(result, carry) pair" (40_digit_lut.md R102). -/
structure Digits where
  value : Trit
  carry : Trit
deriving DecidableEq, Repr

/-- `N`, the number of trits of every vector register (00_scope.md R4). -/
abbrev nTrits : Nat := 40

/-- A vector of exactly 40 trits, trit 0 (the least significant) first (00_scope.md R4). -/
structure TVec where
  digits : List Trit
  size_eq : digits.length = nTrits
deriving DecidableEq, Repr

/-- `t[i]` of the spec, for `i` in 0..39; past the top trit it is Zero (log 18: no rule reads there). -/
def TVec.get (t : TVec) (i : Nat) : Trit := t.digits.getD i .zero

/-- The vector whose trit `i` is `f i`, for `i` in 0..39. -/
def TVec.ofFn (f : Nat → Trit) : TVec := ⟨(List.range nTrits).map f, by simp⟩

/-- `Zero40`: the vector of 40 Zero trits (00_scope.md section 5). -/
def zero40 : TVec := ⟨List.replicate nTrits .zero, List.length_replicate⟩

end Sys2Proof
end

