-- ==== Sys2Proof/Config.lean ====
section
/-! DEFINITION. What an implementation fixes: the names of the 31 digit operations (30_encoding.md R72, R73) and the
spec's OPEN parameters as plain data: the truth tables LUT_<name> (92_eei_decisions.md D14), DIV_ROUNDING (D19) and
TDL_BASE (D7). State carries one `Config`, which no step changes, so that a statement about every state holds for every
value of the parameters (log 4, 5, 6). The default tables are in Machine/Luts.lean. CMD_LATENCY is left out (log 8). -/

namespace Sys2Proof

/-- The unary digit operations, in the order of SEL (30_encoding.md R72). -/
inductive UnOp where
  | negation
  | possibly
  | necessary
  | contingently
  | htNot
  | post
  | pre
  | absolutePositive
  | positive
  | notNegative
  | notPositive
  | negative
  | absoluteNegative
  | inc
  | dec
deriving DecidableEq, Repr

/-- The binary digit operations, in the order of SEL (30_encoding.md R73). -/
inductive BinOp where
  | add
  | sub
  | mul
  | div
  | bitand
  | bitor
  | bitxor
  | k3Equiv
  | k3Imply
  | bi3And
  | bi3Or
  | bi3Imply
  | l3Imply
  | rm3Imply
  | paraImply
  | htImply
deriving DecidableEq, Repr

/-- Every unary digit operation, in the order of SEL. -/
def UnOp.all : List UnOp :=
  [.negation, .possibly, .necessary, .contingently, .htNot, .post, .pre, .absolutePositive,
   .positive, .notNegative, .notPositive, .negative, .absoluteNegative, .inc, .dec]

/-- Every binary digit operation, in the order of SEL. -/
def BinOp.all : List BinOp :=
  [.add, .sub, .mul, .div, .bitand, .bitor, .bitxor, .k3Equiv,
   .k3Imply, .bi3And, .bi3Or, .bi3Imply, .l3Imply, .rm3Imply, .paraImply, .htImply]

/-- A unary digit table: "a fixed 3-entry table" (40_digit_lut.md R102), one entry for each operand. -/
structure UnaryTable where
  atNeg : Digits
  atZero : Digits
  atPos : Digits
deriving DecidableEq, Repr

/-- One row of a binary digit table: the entries for the right operand Neg, Zero, Pos; `none` is `undefined`. -/
structure BinaryRow where
  withNeg : Option Digits
  withZero : Option Digits
  withPos : Option Digits
deriving DecidableEq, Repr

/-- A binary digit table: "a fixed 9-entry table over ordered pairs", one row for each left operand
(40_digit_lut.md R102 and its reading convention). -/
structure BinaryTable where
  rowNeg : BinaryRow
  rowZero : BinaryRow
  rowPos : BinaryRow
deriving DecidableEq, Repr

/-- `LUT_u`: the entry of a unary table for the operand `a` (40_digit_lut.md R102). -/
def UnaryTable.at (t : UnaryTable) : Trit → Digits
  | .neg => t.atNeg
  | .zero => t.atZero
  | .pos => t.atPos

/-- The entry of a row for the right operand. -/
def BinaryRow.at (r : BinaryRow) : Trit → Option Digits
  | .neg => r.withNeg
  | .zero => r.withZero
  | .pos => r.withPos

/-- `LUT_b`: the entry of a binary table for the left operand `a` and the right operand `b`; `none` is `undefined`
(40_digit_lut.md R102). -/
def BinaryTable.at (t : BinaryTable) (a b : Trit) : Option Digits :=
  match a with
  | .neg => t.rowNeg.at b
  | .zero => t.rowZero.at b
  | .pos => t.rowPos.at b

/-- `DIV_ROUNDING`: the rounding of the whole-word quotient. The spec defines one value (93_implementation_defined.md U4;
42_arith.md R173; log 5). -/
inductive DivRounding where
  /-- The default: toward zero. -/
  | towardZero
deriving DecidableEq, Repr

/-- The parameters of one TDL40: its 31 tables `LUT_<name>`, the rounding of `div` and the base address of the window
(00_scope.md section 4). -/
structure Config where
  lutNegation : UnaryTable
  lutPossibly : UnaryTable
  lutNecessary : UnaryTable
  lutContingently : UnaryTable
  lutHtNot : UnaryTable
  lutPost : UnaryTable
  lutPre : UnaryTable
  lutAbsolutePositive : UnaryTable
  lutPositive : UnaryTable
  lutNotNegative : UnaryTable
  lutNotPositive : UnaryTable
  lutNegative : UnaryTable
  lutAbsoluteNegative : UnaryTable
  lutInc : UnaryTable
  lutDec : UnaryTable
  lutAdd : BinaryTable
  lutSub : BinaryTable
  lutMul : BinaryTable
  lutDiv : BinaryTable
  lutBitand : BinaryTable
  lutBitor : BinaryTable
  lutBitxor : BinaryTable
  lutK3Equiv : BinaryTable
  lutK3Imply : BinaryTable
  lutBi3And : BinaryTable
  lutBi3Or : BinaryTable
  lutBi3Imply : BinaryTable
  lutL3Imply : BinaryTable
  lutRm3Imply : BinaryTable
  lutParaImply : BinaryTable
  lutHtImply : BinaryTable
  divRounding : DivRounding
  tdlBase : Nat
deriving DecidableEq, Repr

/-- The table of a unary digit operation. -/
def Config.unary (c : Config) : UnOp → UnaryTable
  | .negation => c.lutNegation
  | .possibly => c.lutPossibly
  | .necessary => c.lutNecessary
  | .contingently => c.lutContingently
  | .htNot => c.lutHtNot
  | .post => c.lutPost
  | .pre => c.lutPre
  | .absolutePositive => c.lutAbsolutePositive
  | .positive => c.lutPositive
  | .notNegative => c.lutNotNegative
  | .notPositive => c.lutNotPositive
  | .negative => c.lutNegative
  | .absoluteNegative => c.lutAbsoluteNegative
  | .inc => c.lutInc
  | .dec => c.lutDec

/-- The table of a binary digit operation. -/
def Config.binary (c : Config) : BinOp → BinaryTable
  | .add => c.lutAdd
  | .sub => c.lutSub
  | .mul => c.lutMul
  | .div => c.lutDiv
  | .bitand => c.lutBitand
  | .bitor => c.lutBitor
  | .bitxor => c.lutBitxor
  | .k3Equiv => c.lutK3Equiv
  | .k3Imply => c.lutK3Imply
  | .bi3And => c.lutBi3And
  | .bi3Or => c.lutBi3Or
  | .bi3Imply => c.lutBi3Imply
  | .l3Imply => c.lutL3Imply
  | .rm3Imply => c.lutRm3Imply
  | .paraImply => c.lutParaImply
  | .htImply => c.lutHtImply

/-- R102 of a unary table: the carry is Zero unless the operation is `inc` or `dec`. -/
def Config.unaryCarryOk (c : Config) (o : UnOp) : Bool :=
  decide (o = .inc) || decide (o = .dec) || Trit.all.all fun a => decide (((c.unary o).at a).carry = .zero)

/-- R102 of a binary table at one pair: undefined exactly for `div` with a Zero right operand, and the carry is Zero
unless the operation is `add` or `sub`. -/
def Config.binaryEntryOk (c : Config) (o : BinOp) (a b : Trit) : Bool :=
  match (c.binary o).at a b with
  | none => decide (o = .div) && decide (b = .zero)
  | some d => !(decide (o = .div) && decide (b = .zero)) &&
      (decide (o = .add) || decide (o = .sub) || decide (d.carry = .zero))

/-- R103: `value + 3 * carry` is the integer result. -/
def Digits.equals (d : Digits) (n : Int) : Bool := decide (d.value.toInt + 3 * d.carry.toInt = n)

/-- The integer result of a table entry, where the rules fix it: R103 for `add` and `sub`, R132 for `mul`, R133 for the
defined entries of `div` (40_digit_lut.md). Other operations are not constrained. -/
def Config.binaryArithOk (c : Config) (a b : Trit) : Bool :=
  (match c.lutAdd.at a b with | some d => d.equals (a.toInt + b.toInt) | none => false) &&
  (match c.lutSub.at a b with | some d => d.equals (a.toInt - b.toInt) | none => false) &&
  (match c.lutMul.at a b with | some d => d.equals (a.toInt * b.toInt) | none => false) &&
  (match c.lutDiv.at a b with | some d => d.equals (a.toInt * b.toInt) | none => true)

/-- R103 for `inc` and `dec`, R110 for `negation`. -/
def Config.unaryArithOk (c : Config) (a : Trit) : Bool :=
  (c.lutInc.at a).equals (a.toInt + 1) && (c.lutDec.at a).equals (a.toInt - 1) &&
  (c.lutNegation.at a).equals (-a.toInt)

/-- "post/pre are mutual inverses via two applications" (40_digit_lut.md R115, R116): the pair's laws, which hold whichever
of the two rotations `post` is (91_not_in_source.md N3). -/
def Config.postPreOk (c : Config) (a : Trit) : Bool :=
  decide ((c.lutPost.at (c.lutPre.at a).value).value = a) &&
  decide ((c.lutPost.at (c.lutPost.at a).value).value = (c.lutPre.at a).value)

/-- The six entries of `bitand` and `bitor` that the source's worked examples fix (40_digit_lut.md R134, R135). -/
def Config.exampleEntriesOk (c : Config) : Bool :=
  decide (c.lutBitand.at .pos .zero = some ⟨.zero, .zero⟩) && decide (c.lutBitand.at .zero .neg = some ⟨.neg, .zero⟩) &&
  decide (c.lutBitand.at .zero .zero = some ⟨.zero, .zero⟩) && decide (c.lutBitor.at .pos .zero = some ⟨.pos, .zero⟩) &&
  decide (c.lutBitor.at .zero .pos = some ⟨.pos, .zero⟩) && decide (c.lutBitor.at .zero .zero = some ⟨.zero, .zero⟩)

/-- What the rules say of EVERY admissible set of tables, whatever the contents the spec leaves open: the named properties
that a claim about digit operations may assume (92_eei_decisions.md D14; log 14). The default tables have them. -/
def Config.lawful (c : Config) : Bool :=
  UnOp.all.all (fun o => c.unaryCarryOk o) &&
  BinOp.all.all (fun o => Trit.all.all fun a => Trit.all.all fun b => c.binaryEntryOk o a b) &&
  Trit.all.all (fun a => c.unaryArithOk a && c.postPreOk a) &&
  Trit.all.all (fun a => Trit.all.all fun b => c.binaryArithOk a b) &&
  c.exampleEntriesOk

end Sys2Proof
end

