-- ==== Sys2Proof/Machine/Ternary.lean ====
section
/-! DEFINITION. The integer and wire forms of trits and trit vectors: value, wrap, the 2-bit pair, and the positional
codes of the codec (00_scope.md R5, R7, R9; 44_codec.md). Written as recursions over the list of trits, least significant
first, so that each sum of the spec is its Horner form. -/

namespace Sys2Proof

/-- `enc(t)`: the 2-bit two's complement pair of a trit (00_scope.md R9). -/
def Trit.pair : Trit → BitVec 2
  | .zero => 0b00#2
  | .pos => 0b01#2
  | .neg => 0b11#2

/-- `sext_2(p)`: the trit of a pair; the pair 10 is illegal (00_scope.md R9). -/
def Trit.ofPair (p : BitVec 2) : Option Trit :=
  match p.toNat with
  | 0 => some .zero
  | 1 => some .pos
  | 3 => some .neg
  | _ => none

/-- The trit of a Euclidean remainder modulo 3: 0 is Zero, 1 is Pos and 2 is "reinterpreted" as Neg (00_scope.md R7). -/
def Trit.ofRemainder (r : Int) : Trit := if r = 2 then .neg else if r = 1 then .pos else .zero

/-- `val` of a list of trits, `Σ t[i]·3^i` (00_scope.md R5). -/
def digitsVal : List Trit → Int
  | [] => 0
  | t :: ts => t.toInt + 3 * digitsVal ts

/-- `val(t)` of a 40-trit vector (00_scope.md R5). -/
def TVec.val (t : TVec) : Int := digitsVal t.digits

/-- `M = (3^40 - 1)/2`, the largest value of a 40-trit vector (00_scope.md R6). -/
def maxVal : Int := 6078832729528464400

/-- `wrap_n(x)`: the low `n` digits of the balanced-ternary representation of `x` (00_scope.md R7). -/
def wrapDigits : Nat → Int → List Trit
  | 0, _ => []
  | n + 1, x => Trit.ofRemainder (x % 3) :: wrapDigits n ((x - (Trit.ofRemainder (x % 3)).toInt) / 3)

theorem wrapDigits_length (n : Nat) (x : Int) : (wrapDigits n x).length = n := by
  induction n generalizing x with
  | zero => rfl
  | succ n ih => simp [wrapDigits, ih]

/-- `wrap_40(x)` as a vector (00_scope.md R7). -/
def wrap40 (x : Int) : TVec := ⟨wrapDigits nTrits x, wrapDigits_length nTrits x⟩

/-- `(wrap_2(x)[0], wrap_2(x)[1])`: the two digits of a small integer (40_digit_lut.md R103). -/
def twoDigits (x : Int) : Digits :=
  ⟨Trit.ofRemainder (x % 3), Trit.ofRemainder (((x - (Trit.ofRemainder (x % 3)).toInt) / 3) % 3)⟩

/-- `t[i] + 1`, the trit's digit in a positional code (44_codec.md R220). -/
def Trit.codeDigit : Trit → Nat
  | .neg => 0
  | .zero => 1
  | .pos => 2

/-- `Σ (t[i] + 1)·3^i`, the positional code of a list of trits (44_codec.md R220, R222). -/
def codeOf : List Trit → Nat
  | [] => 0
  | t :: ts => t.codeDigit + 3 * codeOf ts

/-- `digit(c, i) = ((c / 3^i) mod 3) - 1` (44_codec.md, introduction). -/
def digitOf (c i : Nat) : Trit :=
  match (c / 3 ^ i) % 3 with
  | 0 => .neg
  | 1 => .zero
  | _ => .pos

/-- `Σ enc(t[i]) << 2i`, the pairs of a list of trits as one number (10_state.md R24). -/
def pairsNat : List Trit → Nat
  | [] => 0
  | t :: ts => t.pair.toNat + 4 * pairsNat ts

/-- The vector that holds `d` in trits 0 (value) and 1 (carry), Zero above (40_digit_lut.md R100). -/
def digitsVec (d : Digits) : TVec :=
  TVec.ofFn fun i => if i = 0 then d.value else if i = 1 then d.carry else .zero

end Sys2Proof
end

