-- ==== Sys2Proof/Syntax.lean ====
section
/-! DEFINITION. The commands of TDL40: one constructor for every row of spec/opcode_table.json, in its order
(30_encoding.md R71, R72, R73). Operands are what the command word carries: the fixed digit of `eachw` (R74), the shift
count of `shl` and `shr` and the digit count of `pack` and `unpack` (R75). -/

namespace Sys2Proof

/-- A command of TDL40. -/
inductive Instr where
  -- digit operation on trit 0 of A (40_digit_lut.md R100)
  | dunNegation
  | dunPossibly
  | dunNecessary
  | dunContingently
  | dunHtNot
  | dunPost
  | dunPre
  | dunAbsolutePositive
  | dunPositive
  | dunNotNegative
  | dunNotPositive
  | dunNegative
  | dunAbsoluteNegative
  | dunInc
  | dunDec
  -- digit operation on trit 0 of A and of B (40_digit_lut.md R101)
  | dbinAdd
  | dbinSub
  | dbinMul
  | dbinDiv
  | dbinBitand
  | dbinBitor
  | dbinBitxor
  | dbinK3Equiv
  | dbinK3Imply
  | dbinBi3And
  | dbinBi3Or
  | dbinBi3Imply
  | dbinL3Imply
  | dbinRm3Imply
  | dbinParaImply
  | dbinHtImply
  -- digit operation on every lane of A (41_lanewise.md R150)
  | eachNegation
  | eachPossibly
  | eachNecessary
  | eachContingently
  | eachHtNot
  | eachPost
  | eachPre
  | eachAbsolutePositive
  | eachPositive
  | eachNotNegative
  | eachNotPositive
  | eachNegative
  | eachAbsoluteNegative
  | eachInc
  | eachDec
  -- digit operation between every lane of A and the fixed digit `d` (41_lanewise.md R151)
  | eachwAdd (d : Trit)
  | eachwSub (d : Trit)
  | eachwMul (d : Trit)
  | eachwDiv (d : Trit)
  | eachwBitand (d : Trit)
  | eachwBitor (d : Trit)
  | eachwBitxor (d : Trit)
  | eachwK3Equiv (d : Trit)
  | eachwK3Imply (d : Trit)
  | eachwBi3And (d : Trit)
  | eachwBi3Or (d : Trit)
  | eachwBi3Imply (d : Trit)
  | eachwL3Imply (d : Trit)
  | eachwRm3Imply (d : Trit)
  | eachwParaImply (d : Trit)
  | eachwHtImply (d : Trit)
  -- digit operation between the lanes of A and B (41_lanewise.md R152)
  | zipAdd
  | zipSub
  | zipMul
  | zipDiv
  | zipBitand
  | zipBitor
  | zipBitxor
  | zipK3Equiv
  | zipK3Imply
  | zipBi3And
  | zipBi3Or
  | zipBi3Imply
  | zipL3Imply
  | zipRm3Imply
  | zipParaImply
  | zipHtImply
  -- the 40-trit integer commands (42_arith.md R170 to R176); `k` is the shift count
  | add
  | sub
  | mul
  | div
  | cmp
  | shl (k : Nat)
  | shr (k : Nat)
  -- conversion and register moves (43_convert_move.md R200 to R205)
  | fromdec
  | todec
  | movAR
  | movBR
  | movAR2
  | movBR2
  -- the codec (44_codec.md R220 to R225); `n` is the digit count
  | cenc
  | cdec
  | wenc
  | wdec
  | pack (n : Nat)
  | unpack (n : Nat)
deriving DecidableEq, Repr

end Sys2Proof
end

