-- ==== Sys2Proof/WellFormed.lean ====
section
/-! DEFINITION. When a command's operands are in the range its format admits (30_encoding.md R75 and the format table).
The fixed digit of `eachw` is a trit, so every value of it is legal (R74). -/

namespace Sys2Proof

/-- The counts that the encoding admits: 0..63 for `shl` and `shr`, 0..40 for `pack` and `unpack` (30_encoding.md R75);
every other command has no count. -/
def Instr.countOk : Instr → Bool
  | .shl k => decide (k ≤ 63)
  | .shr k => decide (k ≤ 63)
  | .pack n => decide (n ≤ 40)
  | .unpack n => decide (n ≤ 40)
  | .dunNegation => true
  | .dunPossibly => true
  | .dunNecessary => true
  | .dunContingently => true
  | .dunHtNot => true
  | .dunPost => true
  | .dunPre => true
  | .dunAbsolutePositive => true
  | .dunPositive => true
  | .dunNotNegative => true
  | .dunNotPositive => true
  | .dunNegative => true
  | .dunAbsoluteNegative => true
  | .dunInc => true
  | .dunDec => true
  | .dbinAdd => true
  | .dbinSub => true
  | .dbinMul => true
  | .dbinDiv => true
  | .dbinBitand => true
  | .dbinBitor => true
  | .dbinBitxor => true
  | .dbinK3Equiv => true
  | .dbinK3Imply => true
  | .dbinBi3And => true
  | .dbinBi3Or => true
  | .dbinBi3Imply => true
  | .dbinL3Imply => true
  | .dbinRm3Imply => true
  | .dbinParaImply => true
  | .dbinHtImply => true
  | .eachNegation => true
  | .eachPossibly => true
  | .eachNecessary => true
  | .eachContingently => true
  | .eachHtNot => true
  | .eachPost => true
  | .eachPre => true
  | .eachAbsolutePositive => true
  | .eachPositive => true
  | .eachNotNegative => true
  | .eachNotPositive => true
  | .eachNegative => true
  | .eachAbsoluteNegative => true
  | .eachInc => true
  | .eachDec => true
  | .eachwAdd _ => true
  | .eachwSub _ => true
  | .eachwMul _ => true
  | .eachwDiv _ => true
  | .eachwBitand _ => true
  | .eachwBitor _ => true
  | .eachwBitxor _ => true
  | .eachwK3Equiv _ => true
  | .eachwK3Imply _ => true
  | .eachwBi3And _ => true
  | .eachwBi3Or _ => true
  | .eachwBi3Imply _ => true
  | .eachwL3Imply _ => true
  | .eachwRm3Imply _ => true
  | .eachwParaImply _ => true
  | .eachwHtImply _ => true
  | .zipAdd => true
  | .zipSub => true
  | .zipMul => true
  | .zipDiv => true
  | .zipBitand => true
  | .zipBitor => true
  | .zipBitxor => true
  | .zipK3Equiv => true
  | .zipK3Imply => true
  | .zipBi3And => true
  | .zipBi3Or => true
  | .zipBi3Imply => true
  | .zipL3Imply => true
  | .zipRm3Imply => true
  | .zipParaImply => true
  | .zipHtImply => true
  | .add => true
  | .sub => true
  | .mul => true
  | .div => true
  | .cmp => true
  | .fromdec => true
  | .todec => true
  | .movAR => true
  | .movBR => true
  | .movAR2 => true
  | .movBR2 => true
  | .cenc => true
  | .cdec => true
  | .wenc => true
  | .wdec => true

/-- A command whose operands the encoding admits. -/
def Instr.wellFormed (i : Instr) : Bool := i.countOk

end Sys2Proof
end

