-- ==== Sys2Proof/Decode.lean ====
section
/-! DEFINITION. Decoding a command word (30_encoding.md R70 to R77), total on every 64-bit word and rejecting by name, and
the encoder written from the same tables (R78). -/

namespace Sys2Proof

/-- The operation classes of the OP table (30_encoding.md R71). -/
inductive OpClass where
  | dun
  | dbin
  | each
  | eachw
  | zip
  | add
  | sub
  | mul
  | div
  | cmp
  | shl
  | shr
  | fromdec
  | todec
  | mov
  | cenc
  | cdec
  | wenc
  | wdec
  | pack
  | unpack
deriving DecidableEq, Repr

/-- The six formats of a command word (30_encoding.md section 1). -/
inductive Format where
  | z
  | u
  | b
  | bd
  | k
  | m
deriving DecidableEq, Repr

/-- Which of R70's checks refuses a word. Every one of them raises the same IllegalCommand, and which one fired is not
recorded (60_exceptions.md R258; log 15). -/
inductive DecodeReject where
  /-- Some bit of 63:19 is set. -/
  | reservedBits
  /-- OP is a row of R71 without a class. -/
  | unassignedOp
  /-- SEL is above what the format admits. -/
  | selectorRange
  /-- The fixed digit of `eachw` is the pair 10. -/
  | illegalDigit
  /-- D is not 0 in a format that does not use it. -/
  | unusedDigit
  /-- The digit count of `pack` or `unpack` is above 40. -/
  | countRange
  /-- K is not 0 in a format that does not use it. -/
  | unusedCount
deriving DecidableEq, Repr

/-- OP, bits 5:0 (30_encoding.md section 1). -/
def opField (w : Word) : Nat := (w.extractLsb' 0 6).toNat

/-- SEL, bits 10:6. -/
def selField (w : Word) : Nat := (w.extractLsb' 6 5).toNat

/-- D, bits 12:11. -/
def dField (w : Word) : BitVec 2 := w.extractLsb' 11 2

/-- K, bits 18:13, an unsigned integer 0..63 (30_encoding.md R75). -/
def kField (w : Word) : Nat := (w.extractLsb' 13 6).toNat

/-- RSV, bits 63:19. -/
def rsvField (w : Word) : BitVec 45 := w.extractLsb' 19 45

/-- The OP table (30_encoding.md R71): every value it does not list is an illegal row. -/
def opClass (op : Nat) : Option OpClass :=
  match op with
  | 1 => some .dun
  | 2 => some .dbin
  | 3 => some .each
  | 4 => some .eachw
  | 5 => some .zip
  | 8 => some .add
  | 9 => some .sub
  | 10 => some .mul
  | 11 => some .div
  | 12 => some .cmp
  | 13 => some .shl
  | 14 => some .shr
  | 16 => some .fromdec
  | 17 => some .todec
  | 18 => some .mov
  | 24 => some .cenc
  | 25 => some .cdec
  | 26 => some .wenc
  | 27 => some .wdec
  | 28 => some .pack
  | 29 => some .unpack
  | _ => none

/-- The OP value of a class (30_encoding.md R71). -/
def OpClass.opcode : OpClass → Nat
  | .dun => 1
  | .dbin => 2
  | .each => 3
  | .eachw => 4
  | .zip => 5
  | .add => 8
  | .sub => 9
  | .mul => 10
  | .div => 11
  | .cmp => 12
  | .shl => 13
  | .shr => 14
  | .fromdec => 16
  | .todec => 17
  | .mov => 18
  | .cenc => 24
  | .cdec => 25
  | .wenc => 26
  | .wdec => 27
  | .pack => 28
  | .unpack => 29

/-- The format of a class (30_encoding.md R71). -/
def OpClass.format : OpClass → Format
  | .dun => .u
  | .dbin => .b
  | .each => .u
  | .eachw => .bd
  | .zip => .b
  | .add => .z
  | .sub => .z
  | .mul => .z
  | .div => .z
  | .cmp => .z
  | .shl => .k
  | .shr => .k
  | .fromdec => .z
  | .todec => .z
  | .mov => .m
  | .cenc => .z
  | .cdec => .z
  | .wenc => .z
  | .wdec => .z
  | .pack => .k
  | .unpack => .k

/-- The largest legal SEL of a format (30_encoding.md R70). -/
def Format.selMax : Format → Nat
  | .z => 0
  | .u => 14
  | .b => 15
  | .bd => 15
  | .k => 0
  | .m => 3

/-- The unary digit operation of a SEL value (30_encoding.md R72). -/
def unOp (sel : Nat) : Option UnOp :=
  match sel with
  | 0 => some .negation
  | 1 => some .possibly
  | 2 => some .necessary
  | 3 => some .contingently
  | 4 => some .htNot
  | 5 => some .post
  | 6 => some .pre
  | 7 => some .absolutePositive
  | 8 => some .positive
  | 9 => some .notNegative
  | 10 => some .notPositive
  | 11 => some .negative
  | 12 => some .absoluteNegative
  | 13 => some .inc
  | 14 => some .dec
  | _ => none

/-- The SEL value of a unary digit operation (30_encoding.md R72). -/
def UnOp.sel : UnOp → Nat
  | .negation => 0
  | .possibly => 1
  | .necessary => 2
  | .contingently => 3
  | .htNot => 4
  | .post => 5
  | .pre => 6
  | .absolutePositive => 7
  | .positive => 8
  | .notNegative => 9
  | .notPositive => 10
  | .negative => 11
  | .absoluteNegative => 12
  | .inc => 13
  | .dec => 14

/-- The binary digit operation of a SEL value (30_encoding.md R73). -/
def binOp (sel : Nat) : Option BinOp :=
  match sel with
  | 0 => some .add
  | 1 => some .sub
  | 2 => some .mul
  | 3 => some .div
  | 4 => some .bitand
  | 5 => some .bitor
  | 6 => some .bitxor
  | 7 => some .k3Equiv
  | 8 => some .k3Imply
  | 9 => some .bi3And
  | 10 => some .bi3Or
  | 11 => some .bi3Imply
  | 12 => some .l3Imply
  | 13 => some .rm3Imply
  | 14 => some .paraImply
  | 15 => some .htImply
  | _ => none

/-- The SEL value of a binary digit operation (30_encoding.md R73). -/
def BinOp.sel : BinOp → Nat
  | .add => 0
  | .sub => 1
  | .mul => 2
  | .div => 3
  | .bitand => 4
  | .bitor => 5
  | .bitxor => 6
  | .k3Equiv => 7
  | .k3Imply => 8
  | .bi3And => 9
  | .bi3Or => 10
  | .bi3Imply => 11
  | .l3Imply => 12
  | .rm3Imply => 13
  | .paraImply => 14
  | .htImply => 15

/-- The command `dun.op` of a digit operation. -/
def dunInstr : UnOp → Instr
  | .negation => .dunNegation
  | .possibly => .dunPossibly
  | .necessary => .dunNecessary
  | .contingently => .dunContingently
  | .htNot => .dunHtNot
  | .post => .dunPost
  | .pre => .dunPre
  | .absolutePositive => .dunAbsolutePositive
  | .positive => .dunPositive
  | .notNegative => .dunNotNegative
  | .notPositive => .dunNotPositive
  | .negative => .dunNegative
  | .absoluteNegative => .dunAbsoluteNegative
  | .inc => .dunInc
  | .dec => .dunDec

/-- The command `dbin.op` of a digit operation. -/
def dbinInstr : BinOp → Instr
  | .add => .dbinAdd
  | .sub => .dbinSub
  | .mul => .dbinMul
  | .div => .dbinDiv
  | .bitand => .dbinBitand
  | .bitor => .dbinBitor
  | .bitxor => .dbinBitxor
  | .k3Equiv => .dbinK3Equiv
  | .k3Imply => .dbinK3Imply
  | .bi3And => .dbinBi3And
  | .bi3Or => .dbinBi3Or
  | .bi3Imply => .dbinBi3Imply
  | .l3Imply => .dbinL3Imply
  | .rm3Imply => .dbinRm3Imply
  | .paraImply => .dbinParaImply
  | .htImply => .dbinHtImply

/-- The command `each.op` of a digit operation. -/
def eachInstr : UnOp → Instr
  | .negation => .eachNegation
  | .possibly => .eachPossibly
  | .necessary => .eachNecessary
  | .contingently => .eachContingently
  | .htNot => .eachHtNot
  | .post => .eachPost
  | .pre => .eachPre
  | .absolutePositive => .eachAbsolutePositive
  | .positive => .eachPositive
  | .notNegative => .eachNotNegative
  | .notPositive => .eachNotPositive
  | .negative => .eachNegative
  | .absoluteNegative => .eachAbsoluteNegative
  | .inc => .eachInc
  | .dec => .eachDec

/-- The command `eachw.op` of a digit operation. -/
def eachwInstr (d : Trit) : BinOp → Instr
  | .add => .eachwAdd d
  | .sub => .eachwSub d
  | .mul => .eachwMul d
  | .div => .eachwDiv d
  | .bitand => .eachwBitand d
  | .bitor => .eachwBitor d
  | .bitxor => .eachwBitxor d
  | .k3Equiv => .eachwK3Equiv d
  | .k3Imply => .eachwK3Imply d
  | .bi3And => .eachwBi3And d
  | .bi3Or => .eachwBi3Or d
  | .bi3Imply => .eachwBi3Imply d
  | .l3Imply => .eachwL3Imply d
  | .rm3Imply => .eachwRm3Imply d
  | .paraImply => .eachwParaImply d
  | .htImply => .eachwHtImply d

/-- The command `zip.op` of a digit operation. -/
def zipInstr : BinOp → Instr
  | .add => .zipAdd
  | .sub => .zipSub
  | .mul => .zipMul
  | .div => .zipDiv
  | .bitand => .zipBitand
  | .bitor => .zipBitor
  | .bitxor => .zipBitxor
  | .k3Equiv => .zipK3Equiv
  | .k3Imply => .zipK3Imply
  | .bi3And => .zipBi3And
  | .bi3Or => .zipBi3Or
  | .bi3Imply => .zipBi3Imply
  | .l3Imply => .zipL3Imply
  | .rm3Imply => .zipRm3Imply
  | .paraImply => .zipParaImply
  | .htImply => .zipHtImply

/-- The register move of a SEL value (43_convert_move.md R205). -/
def movInstr (sel : Nat) : Option Instr :=
  match sel with
  | 0 => some .movAR
  | 1 => some .movBR
  | 2 => some .movAR2
  | 3 => some .movBR2
  | _ => none

/-- The command of a class with the fields R70 has checked. -/
def assemble (c : OpClass) (sel : Nat) (d : Trit) (k : Nat) : Option Instr :=
  match c with
  | .dun => (unOp sel).map dunInstr
  | .dbin => (binOp sel).map dbinInstr
  | .each => (unOp sel).map eachInstr
  | .eachw => (binOp sel).map (eachwInstr d)
  | .zip => (binOp sel).map zipInstr
  | .mov => movInstr sel
  | .shl => some (.shl k)
  | .shr => some (.shr k)
  | .pack => some (.pack k)
  | .unpack => some (.unpack k)
  | .add => some .add
  | .sub => some .sub
  | .mul => some .mul
  | .div => some .div
  | .cmp => some .cmp
  | .fromdec => some .fromdec
  | .todec => some .todec
  | .cenc => some .cenc
  | .cdec => some .cdec
  | .wenc => some .wenc
  | .wdec => some .wdec

/-- R70's checks on the fields of a class, in the order the rule makes them; `none` when all pass. -/
def fieldReject (c : OpClass) (sel : Nat) (dp : BitVec 2) (k : Nat) : Option DecodeReject :=
  if c.format.selMax < sel then some .selectorRange
  else if c.format = .bd ∧ dp = 0b10#2 then some .illegalDigit
  else if c.format ≠ .bd ∧ dp ≠ 0#2 then some .unusedDigit
  else if (c = .pack ∨ c = .unpack) ∧ 40 < k then some .countRange
  else if c.format ≠ .k ∧ k ≠ 0 then some .unusedCount
  else none

/-- `decode(w)` (30_encoding.md R70): the command of a word, or the check that refuses it. -/
def decode (w : Word) : Except DecodeReject Instr :=
  if rsvField w ≠ 0#45 then .error .reservedBits
  else
    match opClass (opField w) with
    | none => .error .unassignedOp
    | some c =>
      match fieldReject c (selField w) (dField w) (kField w) with
      | some r => .error r
      | none =>
        match assemble c (selField w) ((Trit.ofPair (dField w)).getD .zero) (kField w) with
        | some i => .ok i
        | none => .error .selectorRange

/-- The fields of a command word. -/
structure CommandFields where
  op : OpClass
  sel : Nat
  d : Trit
  k : Nat
deriving DecidableEq, Repr

/-- The fields of each command's word (30_encoding.md R71, R72, R73, R74, R75; a field a format does not use is 0). -/
def Instr.fields : Instr → CommandFields
  | .dunNegation => ⟨.dun, 0, .zero, 0⟩
  | .dunPossibly => ⟨.dun, 1, .zero, 0⟩
  | .dunNecessary => ⟨.dun, 2, .zero, 0⟩
  | .dunContingently => ⟨.dun, 3, .zero, 0⟩
  | .dunHtNot => ⟨.dun, 4, .zero, 0⟩
  | .dunPost => ⟨.dun, 5, .zero, 0⟩
  | .dunPre => ⟨.dun, 6, .zero, 0⟩
  | .dunAbsolutePositive => ⟨.dun, 7, .zero, 0⟩
  | .dunPositive => ⟨.dun, 8, .zero, 0⟩
  | .dunNotNegative => ⟨.dun, 9, .zero, 0⟩
  | .dunNotPositive => ⟨.dun, 10, .zero, 0⟩
  | .dunNegative => ⟨.dun, 11, .zero, 0⟩
  | .dunAbsoluteNegative => ⟨.dun, 12, .zero, 0⟩
  | .dunInc => ⟨.dun, 13, .zero, 0⟩
  | .dunDec => ⟨.dun, 14, .zero, 0⟩
  | .dbinAdd => ⟨.dbin, 0, .zero, 0⟩
  | .dbinSub => ⟨.dbin, 1, .zero, 0⟩
  | .dbinMul => ⟨.dbin, 2, .zero, 0⟩
  | .dbinDiv => ⟨.dbin, 3, .zero, 0⟩
  | .dbinBitand => ⟨.dbin, 4, .zero, 0⟩
  | .dbinBitor => ⟨.dbin, 5, .zero, 0⟩
  | .dbinBitxor => ⟨.dbin, 6, .zero, 0⟩
  | .dbinK3Equiv => ⟨.dbin, 7, .zero, 0⟩
  | .dbinK3Imply => ⟨.dbin, 8, .zero, 0⟩
  | .dbinBi3And => ⟨.dbin, 9, .zero, 0⟩
  | .dbinBi3Or => ⟨.dbin, 10, .zero, 0⟩
  | .dbinBi3Imply => ⟨.dbin, 11, .zero, 0⟩
  | .dbinL3Imply => ⟨.dbin, 12, .zero, 0⟩
  | .dbinRm3Imply => ⟨.dbin, 13, .zero, 0⟩
  | .dbinParaImply => ⟨.dbin, 14, .zero, 0⟩
  | .dbinHtImply => ⟨.dbin, 15, .zero, 0⟩
  | .eachNegation => ⟨.each, 0, .zero, 0⟩
  | .eachPossibly => ⟨.each, 1, .zero, 0⟩
  | .eachNecessary => ⟨.each, 2, .zero, 0⟩
  | .eachContingently => ⟨.each, 3, .zero, 0⟩
  | .eachHtNot => ⟨.each, 4, .zero, 0⟩
  | .eachPost => ⟨.each, 5, .zero, 0⟩
  | .eachPre => ⟨.each, 6, .zero, 0⟩
  | .eachAbsolutePositive => ⟨.each, 7, .zero, 0⟩
  | .eachPositive => ⟨.each, 8, .zero, 0⟩
  | .eachNotNegative => ⟨.each, 9, .zero, 0⟩
  | .eachNotPositive => ⟨.each, 10, .zero, 0⟩
  | .eachNegative => ⟨.each, 11, .zero, 0⟩
  | .eachAbsoluteNegative => ⟨.each, 12, .zero, 0⟩
  | .eachInc => ⟨.each, 13, .zero, 0⟩
  | .eachDec => ⟨.each, 14, .zero, 0⟩
  | .eachwAdd d => ⟨.eachw, 0, d, 0⟩
  | .eachwSub d => ⟨.eachw, 1, d, 0⟩
  | .eachwMul d => ⟨.eachw, 2, d, 0⟩
  | .eachwDiv d => ⟨.eachw, 3, d, 0⟩
  | .eachwBitand d => ⟨.eachw, 4, d, 0⟩
  | .eachwBitor d => ⟨.eachw, 5, d, 0⟩
  | .eachwBitxor d => ⟨.eachw, 6, d, 0⟩
  | .eachwK3Equiv d => ⟨.eachw, 7, d, 0⟩
  | .eachwK3Imply d => ⟨.eachw, 8, d, 0⟩
  | .eachwBi3And d => ⟨.eachw, 9, d, 0⟩
  | .eachwBi3Or d => ⟨.eachw, 10, d, 0⟩
  | .eachwBi3Imply d => ⟨.eachw, 11, d, 0⟩
  | .eachwL3Imply d => ⟨.eachw, 12, d, 0⟩
  | .eachwRm3Imply d => ⟨.eachw, 13, d, 0⟩
  | .eachwParaImply d => ⟨.eachw, 14, d, 0⟩
  | .eachwHtImply d => ⟨.eachw, 15, d, 0⟩
  | .zipAdd => ⟨.zip, 0, .zero, 0⟩
  | .zipSub => ⟨.zip, 1, .zero, 0⟩
  | .zipMul => ⟨.zip, 2, .zero, 0⟩
  | .zipDiv => ⟨.zip, 3, .zero, 0⟩
  | .zipBitand => ⟨.zip, 4, .zero, 0⟩
  | .zipBitor => ⟨.zip, 5, .zero, 0⟩
  | .zipBitxor => ⟨.zip, 6, .zero, 0⟩
  | .zipK3Equiv => ⟨.zip, 7, .zero, 0⟩
  | .zipK3Imply => ⟨.zip, 8, .zero, 0⟩
  | .zipBi3And => ⟨.zip, 9, .zero, 0⟩
  | .zipBi3Or => ⟨.zip, 10, .zero, 0⟩
  | .zipBi3Imply => ⟨.zip, 11, .zero, 0⟩
  | .zipL3Imply => ⟨.zip, 12, .zero, 0⟩
  | .zipRm3Imply => ⟨.zip, 13, .zero, 0⟩
  | .zipParaImply => ⟨.zip, 14, .zero, 0⟩
  | .zipHtImply => ⟨.zip, 15, .zero, 0⟩
  | .add => ⟨.add, 0, .zero, 0⟩
  | .sub => ⟨.sub, 0, .zero, 0⟩
  | .mul => ⟨.mul, 0, .zero, 0⟩
  | .div => ⟨.div, 0, .zero, 0⟩
  | .cmp => ⟨.cmp, 0, .zero, 0⟩
  | .shl k => ⟨.shl, 0, .zero, k⟩
  | .shr k => ⟨.shr, 0, .zero, k⟩
  | .fromdec => ⟨.fromdec, 0, .zero, 0⟩
  | .todec => ⟨.todec, 0, .zero, 0⟩
  | .movAR => ⟨.mov, 0, .zero, 0⟩
  | .movBR => ⟨.mov, 1, .zero, 0⟩
  | .movAR2 => ⟨.mov, 2, .zero, 0⟩
  | .movBR2 => ⟨.mov, 3, .zero, 0⟩
  | .cenc => ⟨.cenc, 0, .zero, 0⟩
  | .cdec => ⟨.cdec, 0, .zero, 0⟩
  | .wenc => ⟨.wenc, 0, .zero, 0⟩
  | .wdec => ⟨.wdec, 0, .zero, 0⟩
  | .pack n => ⟨.pack, 0, .zero, n⟩
  | .unpack n => ⟨.unpack, 0, .zero, n⟩

/-- The command word of the fields: `OP | SEL << 6 | enc(d) << 11 | k << 13` (30_encoding.md R78). -/
def CommandFields.word (f : CommandFields) : Word :=
  BitVec.ofNat 64 f.op.opcode ||| (BitVec.ofNat 64 f.sel <<< 6) ||| ((f.d.pair.setWidth 64) <<< 11) |||
    (BitVec.ofNat 64 f.k <<< 13)

/-- The word of a command (30_encoding.md R78). -/
def encode (i : Instr) : Word := i.fields.word

/-- The command that the decoder reads from a table row's `nbits` bits `w`; bits above `nbits` are 0. A command is one
64-bit word (30_encoding.md R77), so bit 0 of `w` is bit 0 of the word. -/
def decodeTableWord (nbits w : Nat) : Option Instr :=
  match decode (BitVec.ofNat 64 (w % 2 ^ nbits)) with
  | .ok i => some i
  | .error _ => none

end Sys2Proof
end

