-- ==== Sys2Proof/Machine/Luts.lean ====
section
/-! DEFINITION. The default truth tables LUT_<name>, entry by entry as 40_digit_lut.md prints them: operands in the order
Neg, Zero, Pos; in a binary table one row for each left operand. The tables of `negation`, `inc`, `dec`, `add`, `sub`,
`mul` and `div` are derived there; the entries 93_implementation_defined.md I3 lists are general knowledge, not the
source's (log 4). -/

namespace Sys2Proof.Machine

/-- LUT_negation (40_digit_lut.md R110). -/
def lutNegation : UnaryTable := ⟨⟨.pos, .zero⟩, ⟨.zero, .zero⟩, ⟨.neg, .zero⟩⟩

/-- LUT_possibly (40_digit_lut.md R111). -/
def lutPossibly : UnaryTable := ⟨⟨.neg, .zero⟩, ⟨.pos, .zero⟩, ⟨.pos, .zero⟩⟩

/-- LUT_necessary (40_digit_lut.md R112). -/
def lutNecessary : UnaryTable := ⟨⟨.neg, .zero⟩, ⟨.neg, .zero⟩, ⟨.pos, .zero⟩⟩

/-- LUT_contingently (40_digit_lut.md R113). -/
def lutContingently : UnaryTable := ⟨⟨.neg, .zero⟩, ⟨.pos, .zero⟩, ⟨.neg, .zero⟩⟩

/-- LUT_ht_not (40_digit_lut.md R114). -/
def lutHtNot : UnaryTable := ⟨⟨.pos, .zero⟩, ⟨.neg, .zero⟩, ⟨.neg, .zero⟩⟩

/-- LUT_post (40_digit_lut.md R115). -/
def lutPost : UnaryTable := ⟨⟨.zero, .zero⟩, ⟨.pos, .zero⟩, ⟨.neg, .zero⟩⟩

/-- LUT_pre (40_digit_lut.md R116). -/
def lutPre : UnaryTable := ⟨⟨.pos, .zero⟩, ⟨.neg, .zero⟩, ⟨.zero, .zero⟩⟩

/-- LUT_absolute_positive (40_digit_lut.md R117). -/
def lutAbsolutePositive : UnaryTable := ⟨⟨.pos, .zero⟩, ⟨.zero, .zero⟩, ⟨.pos, .zero⟩⟩

/-- LUT_positive (40_digit_lut.md R118). -/
def lutPositive : UnaryTable := ⟨⟨.zero, .zero⟩, ⟨.zero, .zero⟩, ⟨.pos, .zero⟩⟩

/-- LUT_not_negative (40_digit_lut.md R119). -/
def lutNotNegative : UnaryTable := ⟨⟨.zero, .zero⟩, ⟨.pos, .zero⟩, ⟨.pos, .zero⟩⟩

/-- LUT_not_positive (40_digit_lut.md R120). -/
def lutNotPositive : UnaryTable := ⟨⟨.neg, .zero⟩, ⟨.neg, .zero⟩, ⟨.zero, .zero⟩⟩

/-- LUT_negative (40_digit_lut.md R121). -/
def lutNegative : UnaryTable := ⟨⟨.neg, .zero⟩, ⟨.zero, .zero⟩, ⟨.zero, .zero⟩⟩

/-- LUT_absolute_negative (40_digit_lut.md R122). -/
def lutAbsoluteNegative : UnaryTable := ⟨⟨.neg, .zero⟩, ⟨.zero, .zero⟩, ⟨.neg, .zero⟩⟩

/-- LUT_inc (40_digit_lut.md R123). -/
def lutInc : UnaryTable := ⟨⟨.zero, .zero⟩, ⟨.pos, .zero⟩, ⟨.neg, .pos⟩⟩

/-- LUT_dec (40_digit_lut.md R124). -/
def lutDec : UnaryTable := ⟨⟨.pos, .neg⟩, ⟨.neg, .zero⟩, ⟨.zero, .zero⟩⟩

/-- LUT_add (40_digit_lut.md R130). -/
def lutAdd : BinaryTable :=
  ⟨⟨some ⟨.pos, .neg⟩, some ⟨.neg, .zero⟩, some ⟨.zero, .zero⟩⟩,
   ⟨some ⟨.neg, .zero⟩, some ⟨.zero, .zero⟩, some ⟨.pos, .zero⟩⟩,
   ⟨some ⟨.zero, .zero⟩, some ⟨.pos, .zero⟩, some ⟨.neg, .pos⟩⟩⟩

/-- LUT_sub (40_digit_lut.md R131). -/
def lutSub : BinaryTable :=
  ⟨⟨some ⟨.zero, .zero⟩, some ⟨.neg, .zero⟩, some ⟨.pos, .neg⟩⟩,
   ⟨some ⟨.pos, .zero⟩, some ⟨.zero, .zero⟩, some ⟨.neg, .zero⟩⟩,
   ⟨some ⟨.neg, .pos⟩, some ⟨.pos, .zero⟩, some ⟨.zero, .zero⟩⟩⟩

/-- LUT_mul (40_digit_lut.md R132). -/
def lutMul : BinaryTable :=
  ⟨⟨some ⟨.pos, .zero⟩, some ⟨.zero, .zero⟩, some ⟨.neg, .zero⟩⟩,
   ⟨some ⟨.zero, .zero⟩, some ⟨.zero, .zero⟩, some ⟨.zero, .zero⟩⟩,
   ⟨some ⟨.neg, .zero⟩, some ⟨.zero, .zero⟩, some ⟨.pos, .zero⟩⟩⟩

/-- LUT_div (40_digit_lut.md R133). -/
def lutDiv : BinaryTable :=
  ⟨⟨some ⟨.pos, .zero⟩, none, some ⟨.neg, .zero⟩⟩,
   ⟨some ⟨.zero, .zero⟩, none, some ⟨.zero, .zero⟩⟩,
   ⟨some ⟨.neg, .zero⟩, none, some ⟨.pos, .zero⟩⟩⟩

/-- LUT_bitand (40_digit_lut.md R134). -/
def lutBitand : BinaryTable :=
  ⟨⟨some ⟨.neg, .zero⟩, some ⟨.neg, .zero⟩, some ⟨.neg, .zero⟩⟩,
   ⟨some ⟨.neg, .zero⟩, some ⟨.zero, .zero⟩, some ⟨.zero, .zero⟩⟩,
   ⟨some ⟨.neg, .zero⟩, some ⟨.zero, .zero⟩, some ⟨.pos, .zero⟩⟩⟩

/-- LUT_bitor (40_digit_lut.md R135). -/
def lutBitor : BinaryTable :=
  ⟨⟨some ⟨.neg, .zero⟩, some ⟨.zero, .zero⟩, some ⟨.pos, .zero⟩⟩,
   ⟨some ⟨.zero, .zero⟩, some ⟨.zero, .zero⟩, some ⟨.pos, .zero⟩⟩,
   ⟨some ⟨.pos, .zero⟩, some ⟨.pos, .zero⟩, some ⟨.pos, .zero⟩⟩⟩

/-- LUT_bitxor (40_digit_lut.md R136). -/
def lutBitxor : BinaryTable :=
  ⟨⟨some ⟨.neg, .zero⟩, some ⟨.zero, .zero⟩, some ⟨.pos, .zero⟩⟩,
   ⟨some ⟨.zero, .zero⟩, some ⟨.zero, .zero⟩, some ⟨.zero, .zero⟩⟩,
   ⟨some ⟨.pos, .zero⟩, some ⟨.zero, .zero⟩, some ⟨.neg, .zero⟩⟩⟩

/-- LUT_k3_equiv (40_digit_lut.md R137). -/
def lutK3Equiv : BinaryTable :=
  ⟨⟨some ⟨.pos, .zero⟩, some ⟨.zero, .zero⟩, some ⟨.neg, .zero⟩⟩,
   ⟨some ⟨.zero, .zero⟩, some ⟨.zero, .zero⟩, some ⟨.zero, .zero⟩⟩,
   ⟨some ⟨.neg, .zero⟩, some ⟨.zero, .zero⟩, some ⟨.pos, .zero⟩⟩⟩

/-- LUT_k3_imply (40_digit_lut.md R138). -/
def lutK3Imply : BinaryTable :=
  ⟨⟨some ⟨.pos, .zero⟩, some ⟨.pos, .zero⟩, some ⟨.pos, .zero⟩⟩,
   ⟨some ⟨.zero, .zero⟩, some ⟨.zero, .zero⟩, some ⟨.pos, .zero⟩⟩,
   ⟨some ⟨.neg, .zero⟩, some ⟨.zero, .zero⟩, some ⟨.pos, .zero⟩⟩⟩

/-- LUT_bi3_and (40_digit_lut.md R139). -/
def lutBi3And : BinaryTable :=
  ⟨⟨some ⟨.neg, .zero⟩, some ⟨.zero, .zero⟩, some ⟨.neg, .zero⟩⟩,
   ⟨some ⟨.zero, .zero⟩, some ⟨.zero, .zero⟩, some ⟨.zero, .zero⟩⟩,
   ⟨some ⟨.neg, .zero⟩, some ⟨.zero, .zero⟩, some ⟨.pos, .zero⟩⟩⟩

/-- LUT_bi3_or (40_digit_lut.md R140). -/
def lutBi3Or : BinaryTable :=
  ⟨⟨some ⟨.neg, .zero⟩, some ⟨.zero, .zero⟩, some ⟨.pos, .zero⟩⟩,
   ⟨some ⟨.zero, .zero⟩, some ⟨.zero, .zero⟩, some ⟨.zero, .zero⟩⟩,
   ⟨some ⟨.pos, .zero⟩, some ⟨.zero, .zero⟩, some ⟨.pos, .zero⟩⟩⟩

/-- LUT_bi3_imply (40_digit_lut.md R141). -/
def lutBi3Imply : BinaryTable :=
  ⟨⟨some ⟨.pos, .zero⟩, some ⟨.zero, .zero⟩, some ⟨.pos, .zero⟩⟩,
   ⟨some ⟨.zero, .zero⟩, some ⟨.zero, .zero⟩, some ⟨.zero, .zero⟩⟩,
   ⟨some ⟨.neg, .zero⟩, some ⟨.zero, .zero⟩, some ⟨.pos, .zero⟩⟩⟩

/-- LUT_l3_imply (40_digit_lut.md R142). -/
def lutL3Imply : BinaryTable :=
  ⟨⟨some ⟨.pos, .zero⟩, some ⟨.pos, .zero⟩, some ⟨.pos, .zero⟩⟩,
   ⟨some ⟨.zero, .zero⟩, some ⟨.pos, .zero⟩, some ⟨.pos, .zero⟩⟩,
   ⟨some ⟨.neg, .zero⟩, some ⟨.zero, .zero⟩, some ⟨.pos, .zero⟩⟩⟩

/-- LUT_rm3_imply (40_digit_lut.md R143). -/
def lutRm3Imply : BinaryTable :=
  ⟨⟨some ⟨.pos, .zero⟩, some ⟨.pos, .zero⟩, some ⟨.pos, .zero⟩⟩,
   ⟨some ⟨.neg, .zero⟩, some ⟨.zero, .zero⟩, some ⟨.pos, .zero⟩⟩,
   ⟨some ⟨.neg, .zero⟩, some ⟨.neg, .zero⟩, some ⟨.pos, .zero⟩⟩⟩

/-- LUT_para_imply (40_digit_lut.md R144). -/
def lutParaImply : BinaryTable :=
  ⟨⟨some ⟨.pos, .zero⟩, some ⟨.pos, .zero⟩, some ⟨.pos, .zero⟩⟩,
   ⟨some ⟨.neg, .zero⟩, some ⟨.zero, .zero⟩, some ⟨.pos, .zero⟩⟩,
   ⟨some ⟨.neg, .zero⟩, some ⟨.zero, .zero⟩, some ⟨.pos, .zero⟩⟩⟩

/-- LUT_ht_imply (40_digit_lut.md R145). -/
def lutHtImply : BinaryTable :=
  ⟨⟨some ⟨.pos, .zero⟩, some ⟨.pos, .zero⟩, some ⟨.pos, .zero⟩⟩,
   ⟨some ⟨.neg, .zero⟩, some ⟨.pos, .zero⟩, some ⟨.pos, .zero⟩⟩,
   ⟨some ⟨.neg, .zero⟩, some ⟨.zero, .zero⟩, some ⟨.pos, .zero⟩⟩⟩

/-- The parameters at their defaults (92_eei_decisions.md D14, D19); the spec gives TDL_BASE no value, and 0 is the model's
choice (log 6, log 17). -/
def defaultConfig : Config where
  lutNegation := lutNegation
  lutPossibly := lutPossibly
  lutNecessary := lutNecessary
  lutContingently := lutContingently
  lutHtNot := lutHtNot
  lutPost := lutPost
  lutPre := lutPre
  lutAbsolutePositive := lutAbsolutePositive
  lutPositive := lutPositive
  lutNotNegative := lutNotNegative
  lutNotPositive := lutNotPositive
  lutNegative := lutNegative
  lutAbsoluteNegative := lutAbsoluteNegative
  lutInc := lutInc
  lutDec := lutDec
  lutAdd := lutAdd
  lutSub := lutSub
  lutMul := lutMul
  lutDiv := lutDiv
  lutBitand := lutBitand
  lutBitor := lutBitor
  lutBitxor := lutBitxor
  lutK3Equiv := lutK3Equiv
  lutK3Imply := lutK3Imply
  lutBi3And := lutBi3And
  lutBi3Or := lutBi3Or
  lutBi3Imply := lutBi3Imply
  lutL3Imply := lutL3Imply
  lutRm3Imply := lutRm3Imply
  lutParaImply := lutParaImply
  lutHtImply := lutHtImply
  divRounding := .towardZero
  tdlBase := 0

end Sys2Proof.Machine
end

