-- ==== Sys2Proof/Machine/State.lean ====
section
/-! DEFINITION. The state of TDL40 (10_state.md section 1), the host's events that it serves, the reasons a step can stop,
and the state after reset (10_state.md R34). -/

namespace Sys2Proof.Machine

/-- The error classes of STATUS.ERR (10_state.md R28). -/
inductive ErrorClass where
  /-- Code 1, reserved: nothing raises it (60_exceptions.md R252). -/
  | parse
  /-- Code 2: `div` by a value of 0 (60_exceptions.md R251). -/
  | arithmetic
  /-- Code 3: a digit pair without a table entry (60_exceptions.md R253). -/
  | domain
  /-- Code 4: a raw code outside its valid range (60_exceptions.md R254). -/
  | codec
  /-- Code 5: an integer outside the range of 40 trits (60_exceptions.md R257). -/
  | range
  /-- Code 6: a command word that does not decode (60_exceptions.md R255). -/
  | illegal
deriving DecidableEq, Repr

/-- Why a step stops: a host access that the spec has no step for, "the host is stuck at that access"
(20_memory.md R53, 70_reset_and_hazards.md R321). Raised by the serving of an access; safe: the model stops where the
spec says that no rule applies. -/
inductive Fault where
  /-- An access that is not 8 bytes wide (20_memory.md R53). Raised by `serveAccess`; safe (log 7). -/
  | accessWidth
  /-- An access at an offset that is not a multiple of 8 (20_memory.md R53). Raised by `serveAccess`; safe (log 7). -/
  | misaligned
  /-- An access outside the 256-byte window, which is no access to TDL40 (20_memory.md R50). Raised by `serveAccess`;
  safe (log 12). -/
  | outsideWindow
deriving DecidableEq, Repr

/-- Why a step is refused. -/
inductive Refusal where
  /-- A command without a meaning. No arm of `exec` uses it: every command of the opcode table has its meaning. Safe. -/
  | notModelled (mnemonic : String)
deriving DecidableEq, Repr

/-- What the outside world does to TDL40, one step each (70_reset_and_hazards.md R321, R300). Addresses are absolute; an
access reaches the window through TDL_BASE (20_memory.md R50). -/
inductive HostEvent where
  /-- `MemRead(addr, width)`. -/
  | read (addr width : Nat)
  /-- `MemWrite(addr, width, v)`; only width 8 has a step, so `v` has 64 bits. -/
  | write (addr width : Nat) (v : Word)
  /-- The platform's reset event (70_reset_and_hazards.md R300; log 9). -/
  | reset
deriving DecidableEq, Repr

/-- The state of TDL40. -/
structure State where
  /-- Operand register A (10_state.md R21). -/
  a : TVec
  /-- Operand register B (10_state.md R21). -/
  b : TVec
  /-- Result register R (10_state.md R22). -/
  r : TVec
  /-- Second result register R2 (10_state.md R22). -/
  r2 : TVec
  /-- The scalar register X (10_state.md R25). -/
  x : Word
  /-- The last word written to CMD (10_state.md R26). -/
  cmd : Word
  /-- STATUS.ERR, bits 2:0 (10_state.md R28). -/
  err : BitVec 3
  /-- STATUS.C, bits 4:3 (10_state.md R29). -/
  c : Trit
  /-- STATUS.OV, bit 5 (10_state.md R30). -/
  ov : Bool
  /-- STATUS.STICKY: bit `e` here is STATUS bit `8+e` (10_state.md R31). -/
  sticky : BitVec 8
  /-- The implementation's parameters, which no step changes (the model's own field; log 4, 5, 6). -/
  config : Config
  /-- The host's events not served yet, oldest first (the model's own field; log 1). -/
  inputs : List HostEvent
  /-- What the host got back from the access served last: the word of a read, nothing after a write (the model's own
  field; 70_reset_and_hazards.md R321; log 3). -/
  reply : Option Word
deriving DecidableEq, Repr

/-- The machine right after reset (10_state.md R34, 70_reset_and_hazards.md R300): every register Zero40 or 0. The
parameters are at their defaults and no host event is pending (log 1, 3, 17). -/
def State.reset : State where
  a := zero40
  b := zero40
  r := zero40
  r2 := zero40
  x := 0#64
  cmd := 0#64
  err := 0#3
  c := .zero
  ov := false
  sticky := 0#8
  config := defaultConfig
  inputs := []
  reply := none

end Sys2Proof.Machine
end

