-- ==== Sys2Proof/Machine/Ops.lean ====
section
/-! DEFINITION. The named operations over the registers: writing a destination, ending a command in success, and raising
an error, TDL40's only form of exception (60_exceptions.md R250, R256, R260). There is no return from an error: the host
reads STATUS and goes on (R259). -/

namespace Sys2Proof.Machine

/-- What a command or a step answers. -/
abbrev Answer := Host.Outcome State Fault Refusal

/-- The code of an error class (10_state.md R28). -/
def ErrorClass.code : ErrorClass → Nat
  | .parse => 1
  | .arithmetic => 2
  | .domain => 3
  | .codec => 4
  | .range => 5
  | .illegal => 6

/-- `raise E`: ERR gets the code and STICKY its bit; every other register keeps its value (60_exceptions.md R256). -/
def State.raiseError (e : ErrorClass) (s : State) : State :=
  { s with err := BitVec.ofNat 3 e.code, sticky := s.sticky ||| (1#8 <<< e.code) }

/-- The end of a successful command: C and OV as its rule says, ERR 0 (00_scope.md R12, 10_state.md R28, R29, R30). -/
def State.succeed (c : Trit) (ov : Bool) (s : State) : State := { s with c := c, ov := ov, err := 0#3 }

/-- `A <- t`. -/
def State.setA (t : TVec) (s : State) : State := { s with a := t }

/-- `B <- t`. -/
def State.setB (t : TVec) (s : State) : State := { s with b := t }

/-- `R <- t`. -/
def State.setR (t : TVec) (s : State) : State := { s with r := t }

/-- `R2 <- t`. -/
def State.setR2 (t : TVec) (s : State) : State := { s with r2 := t }

/-- `X <- v`. -/
def State.setX (v : Word) (s : State) : State := { s with x := v }

/-- CMD holds the word written to it (10_state.md R26). -/
def State.setCmd (w : Word) (s : State) : State := { s with cmd := w }

/-- A host write of STATUS clears the STICKY bits that `v` has a 1 for, and nothing else (10_state.md R31). -/
def State.clearSticky (v : Word) (s : State) : State := { s with sticky := s.sticky &&& ~~~(v.extractLsb' 8 8) }

/-- A command that writes R, with C and OV as given. -/
def succeedR (t : TVec) (c : Trit) (ov : Bool) (s : State) : Answer := .next ((s.setR t).succeed c ov)

/-- A command that writes R and R2, with C Zero. -/
def succeedR2 (lo hi : TVec) (ov : Bool) (s : State) : Answer := .next (((s.setR lo).setR2 hi).succeed .zero ov)

/-- A command that writes X, with C Zero and OV 0. -/
def succeedX (v : Word) (s : State) : Answer := .next ((s.setX v).succeed .zero false)

/-- A command that ends in an error (60_exceptions.md R250). -/
def fail (e : ErrorClass) (s : State) : Answer := .next (s.raiseError e)

/-- The unary scalar digit command with a table (40_digit_lut.md R100). -/
def scalarUnary (t : UnaryTable) (s : State) : Answer :=
  succeedR (digitsVec (t.at (s.a.get 0))) (t.at (s.a.get 0)).carry false s

/-- The binary scalar digit command with a table (40_digit_lut.md R101). -/
def scalarBinary (t : BinaryTable) (s : State) : Answer :=
  match t.at (s.a.get 0) (s.b.get 0) with
  | none => fail .domain s
  | some d => succeedR (digitsVec d) d.carry false s

/-- The unary lanewise command with a table: every lane keeps its value digit (41_lanewise.md R150, R153, R154). -/
def lanesUnary (t : UnaryTable) (s : State) : Answer :=
  succeedR (TVec.ofFn fun i => (t.at (s.a.get i)).value) .zero false s

/-- Whether some lane has no table entry (41_lanewise.md R155); lane `i`'s right operand is `right i`. -/
def someLaneUndefined (t : BinaryTable) (left : TVec) (right : Nat → Trit) : Bool :=
  (List.range nTrits).any fun i => (t.at (left.get i) (right i)).isNone

/-- The value digit of a binary table's entry; a command reads it only after `someLaneUndefined` has refused. -/
def laneValue (t : BinaryTable) (x y : Trit) : Trit :=
  match t.at x y with
  | none => .zero
  | some d => d.value

/-- The binary lanewise command with a table and the right operand of each lane (41_lanewise.md R151, R152, R155). -/
def lanesBinary (t : BinaryTable) (right : Nat → Trit) (s : State) : Answer :=
  if someLaneUndefined t s.a right then fail .domain s
  else succeedR (TVec.ofFn fun i => laneValue t (s.a.get i) (right i)) .zero false s

/-- The sweep of `add` and `sub` from the least significant digit: each position combines two digits and the incoming
carry, keeps the low digit and passes the high one on (42_arith.md R170, R171). -/
def carrySweep (op : Int → Int → Int) : List Trit → List Trit → Trit → List Trit × Trit
  | x :: xs, y :: ys, c =>
    ((twoDigits (op x.toInt y.toInt + c.toInt)).value ::
        (carrySweep op xs ys (twoDigits (op x.toInt y.toInt + c.toInt)).carry).1,
      (carrySweep op xs ys (twoDigits (op x.toInt y.toInt + c.toInt)).carry).2)
  | [], _, c => ([], c)
  | _ :: _, [], c => ([], c)

theorem carrySweep_length (op : Int → Int → Int) (xs ys : List Trit) (c : Trit) (h : xs.length = ys.length) :
    (carrySweep op xs ys c).1.length = xs.length := by
  induction xs generalizing ys c with
  | nil => simp [carrySweep]
  | cons x xs ih =>
    cases ys with
    | nil => simp at h
    | cons y ys => simpa [carrySweep] using ih ys _ (by simpa using h)

/-- The 40 digits that a sweep over two vectors keeps. -/
def sweepDigits (op : Int → Int → Int) (x y : TVec) : TVec :=
  ⟨(carrySweep op x.digits y.digits .zero).1,
    (carrySweep_length op _ _ _ (x.size_eq.trans y.size_eq.symm)).trans x.size_eq⟩

/-- The carry out of position 39 of a sweep over two vectors. -/
def sweepCarry (op : Int → Int → Int) (x y : TVec) : Trit := (carrySweep op x.digits y.digits .zero).2

/-- The low 40 of the 80 digits `wrap_80(p)` (42_arith.md R172). -/
def lowHalf (p : Int) : TVec := ⟨(wrapDigits 80 p).take nTrits, by simp [wrapDigits_length, nTrits]⟩

/-- The high 40 of the 80 digits `wrap_80(p)` (42_arith.md R172). -/
def highHalf (p : Int) : TVec := ⟨(wrapDigits 80 p).drop nTrits, by simp [wrapDigits_length, nTrits]⟩

/-- The quotient of `div` under each defined DIV_ROUNDING: `trunc(a / b)` for toward zero (42_arith.md R173; log 5). -/
def quotient (m : DivRounding) (a b : Int) : Int :=
  match m with
  | .towardZero => Int.tdiv a b

/-- The scan of `cmp` from the most significant digit; the lists are most significant first (42_arith.md R174). -/
def scanCompare : List Trit → List Trit → Trit
  | x :: xs, y :: ys => if x = y then scanCompare xs ys else if x.toInt > y.toInt then .pos else .neg
  | [], _ => .zero
  | _ :: _, [] => .zero

/-- `shl`'s digits (42_arith.md R175). -/
def shiftLeft (t : TVec) (k : Nat) : TVec := TVec.ofFn fun i => if k ≤ i then t.get (i - k) else .zero

/-- `shr`'s digits (42_arith.md R176). -/
def shiftRight (t : TVec) (k : Nat) : TVec := TVec.ofFn fun i => if i + k ≤ 39 then t.get (i + k) else .zero

/-- `⌈n/5⌉`, the number of chunks of a ChunkedSequence of `n` trits (44_codec.md section 3). -/
def chunkCount (n : Nat) : Nat := (n + 4) / 5

/-- The five trits of chunk `c` that `pack n` encodes: Zero in the padding slots (44_codec.md R224). -/
def packChunk (t : TVec) (n c : Nat) : List Trit :=
  (List.range 5).map fun j => if 5 * c + j < n then t.get (5 * c + j) else .zero

/-- A list of byte values as one little-endian number: byte `c` is bits `8c+7:8c` (20_memory.md R52). -/
def bytesNat : List Nat → Nat
  | [] => 0
  | v :: vs => v + 256 * bytesNat vs

/-- The word that `pack n` leaves in X (44_codec.md R224). -/
def packWord (t : TVec) (n : Nat) : Word :=
  BitVec.ofNat 64 (bytesNat ((List.range (chunkCount n)).map fun c => codeOf (packChunk t n c)))

/-- Byte `c` of a word, bits `8c+7:8c` (20_memory.md R52). -/
def byteOf (v : Word) (c : Nat) : Nat := (v.extractLsb' (8 * c) 8).toNat

/-- Whether `unpack n` refuses chunk `c` of the word: its byte is above 242, or a padding slot does not decode to Zero
(44_codec.md R225). -/
def chunkRefused (v : Word) (n c : Nat) : Bool :=
  decide (242 < byteOf v c) ||
    (List.range 5).any fun j => decide (n ≤ 5 * c + j) && decide (digitOf (byteOf v c) j ≠ .zero)

/-- The vector that `unpack n` decodes (44_codec.md R225). -/
def unpackVec (v : Word) (n : Nat) : TVec :=
  TVec.ofFn fun p => if p < n then digitOf (byteOf v (p / 5)) (p % 5) else .zero

/-- The vector of the low `m` digits of a code, Zero above (44_codec.md R221, R223). -/
def decodeCode (m c : Nat) : TVec := TVec.ofFn fun i => if i < m then digitOf c i else .zero

end Sys2Proof.Machine
end

