-- ==== Sys2Proof/Machine/Flags.lean ====
section
/-! DEFINITION. The flags: when OV says that digits were dropped (10_state.md R30), and the STATUS word that the host
reads (10_state.md R27). C is the carry trit each command's rule names (10_state.md R29). -/

namespace Sys2Proof.Machine

/-- OV of `add` and `sub`: the carry out is non-Zero (42_arith.md R170, R171). -/
def carryOverflow (c : Trit) : Bool := decide (c ≠ .zero)

/-- OV of `mul`: the high half is not Zero40 (42_arith.md R172). -/
def productOverflow (hi : TVec) : Bool := decide (hi ≠ zero40)

/-- OV of `shl k`: some digit `j` with `40-k <= j <= 39` is non-Zero (42_arith.md R175). -/
def shiftOverflow (t : TVec) (k : Nat) : Bool :=
  (List.range nTrits).any fun j => decide (nTrits ≤ j + k) && decide (t.get j ≠ .zero)

/-- The STATUS word: ERR in bits 2:0, C in 4:3, OV in 5, STICKY in 15:8, every other bit 0 (10_state.md R27). -/
def statusWord (s : State) : Word :=
  s.err.setWidth 64 ||| (s.c.pair.setWidth 64 <<< 3) ||| ((BitVec.ofBool s.ov).setWidth 64 <<< 5) |||
    (s.sticky.setWidth 64 <<< 8)

end Sys2Proof.Machine
end

