-- ==== Sys2Proof/Machine/Arith.lean ====
section
/-! DEFINITION. The integer commands (42_arith.md R170 to R176). -/

namespace Sys2Proof.Machine

/-- `add` (42_arith.md R170). -/
def execAdd (s : State) : Answer :=
  succeedR (sweepDigits (· + ·) s.a s.b) (sweepCarry (· + ·) s.a s.b) (carryOverflow (sweepCarry (· + ·) s.a s.b)) s

/-- `sub` (42_arith.md R171). -/
def execSub (s : State) : Answer :=
  succeedR (sweepDigits (· - ·) s.a s.b) (sweepCarry (· - ·) s.a s.b) (carryOverflow (sweepCarry (· - ·) s.a s.b)) s

/-- `mul`: the 80 digits of the exact product, low half in R and high half in R2 (42_arith.md R172). The product is
`val(A)·val(B)`, the value the rule gives its sum of digit products (log 11). -/
def execMul (s : State) : Answer :=
  succeedR2 (lowHalf (s.a.val * s.b.val)) (highHalf (s.a.val * s.b.val))
    (productOverflow (highHalf (s.a.val * s.b.val))) s

/-- `div`: quotient in R, remainder in R2; ArithmeticError when `val(B) = 0` (42_arith.md R173). -/
def execDiv (s : State) : Answer :=
  if s.b.val = 0 then fail .arithmetic s
  else
    succeedR2 (wrap40 (quotient s.config.divRounding s.a.val s.b.val))
      (wrap40 (s.a.val - quotient s.config.divRounding s.a.val s.b.val * s.b.val)) false s

/-- `cmp`: the sign of the comparison in lane 0 (42_arith.md R174). -/
def execCmp (s : State) : Answer :=
  succeedR (TVec.ofFn fun i => if i = 0 then scanCompare s.a.digits.reverse s.b.digits.reverse else .zero) .zero false s

/-- `shl k` (42_arith.md R175). -/
def execShl (k : Nat) (s : State) : Answer := succeedR (shiftLeft s.a k) .zero (shiftOverflow s.a k) s

/-- `shr k` (42_arith.md R176). -/
def execShr (k : Nat) (s : State) : Answer := succeedR (shiftRight s.a k) .zero false s

end Sys2Proof.Machine
end

