-- ==== Sys2Proof/Machine/Codec.lean ====
section
/-! DEFINITION. The Chunk, Word and chunked-storage codec (44_codec.md R220 to R225). -/

namespace Sys2Proof.Machine

/-- `cenc`: the Chunk code of A[4:0] (44_codec.md R220). -/
def execCenc (s : State) : Answer := succeedX (BitVec.ofNat 64 (codeOf (s.a.digits.take 5))) s

/-- `cdec`: the five trits of the Chunk code that is all of X; CodecError above 242 (44_codec.md R221). -/
def execCdec (s : State) : Answer :=
  if 242 < s.x.toNat then fail .codec s else succeedR (decodeCode 5 s.x.toNat) .zero false s

/-- `wenc`: the Word code of all of A (44_codec.md R222). -/
def execWenc (s : State) : Answer := succeedX (BitVec.ofNat 64 (codeOf s.a.digits)) s

/-- `wdec`: the forty trits of the Word code in X; CodecError from 3^40 on (44_codec.md R223). -/
def execWdec (s : State) : Answer :=
  if 3 ^ 40 ≤ s.x.toNat then fail .codec s else succeedR (decodeCode nTrits s.x.toNat) .zero false s

/-- `pack n`: the low `n` trits of A as chunks in the bytes of X (44_codec.md R224; log 16). -/
def execPack (n : Nat) (s : State) : Answer := succeedX (packWord s.a n) s

/-- `unpack n`: the `n` trits of the chunks in X; CodecError when a used byte is refused, all checks before R is written
(44_codec.md R225). -/
def execUnpack (n : Nat) (s : State) : Answer :=
  if (List.range (chunkCount n)).any fun c => chunkRefused s.x n c then fail .codec s
  else succeedR (unpackVec s.x n) .zero false s

end Sys2Proof.Machine
end

