-- ==== Sys2Proof/Machine/Convert.lean ====
section
/-! DEFINITION. Conversion between X and the trits, and the register moves (43_convert_move.md R200 to R205). -/

namespace Sys2Proof.Machine

/-- `fromdec`: RangeError when the signed integer in X is outside `[-M, M]` (43_convert_move.md R200). -/
def execFromdec (s : State) : Answer :=
  if maxVal < s.x.toInt ∨ s.x.toInt < -maxVal then fail .range s else succeedR (wrap40 s.x.toInt) .zero false s

/-- `todec`: `val(A)` modulo 2^64; it never fails (43_convert_move.md R201, R202). -/
def execTodec (s : State) : Answer := succeedX (BitVec.ofInt 64 s.a.val) s

/-- `mov a,r` (43_convert_move.md R205). -/
def execMovAR (s : State) : Answer := .next ((s.setA s.r).succeed .zero false)

/-- `mov b,r` (43_convert_move.md R205). -/
def execMovBR (s : State) : Answer := .next ((s.setB s.r).succeed .zero false)

/-- `mov a,r2` (43_convert_move.md R205). -/
def execMovAR2 (s : State) : Answer := .next ((s.setA s.r2).succeed .zero false)

/-- `mov b,r2` (43_convert_move.md R205). -/
def execMovBR2 (s : State) : Answer := .next ((s.setB s.r2).succeed .zero false)

end Sys2Proof.Machine
end

