-- ==== Sys2Proof/Machine/Dbin.lean ====
section
/-! DEFINITION. The scalar binary digit commands `dbin.op` (40_digit_lut.md R101), each with its table. Only `dbin.div` has
undefined entries (R102). -/

namespace Sys2Proof.Machine

/-- `dbin.add` (40_digit_lut.md R101 with LUT_add, R130). -/
def execDbinAdd (s : State) : Answer := scalarBinary s.config.lutAdd s

/-- `dbin.sub` (40_digit_lut.md R101 with LUT_sub, R131). -/
def execDbinSub (s : State) : Answer := scalarBinary s.config.lutSub s

/-- `dbin.mul` (40_digit_lut.md R101 with LUT_mul, R132). -/
def execDbinMul (s : State) : Answer := scalarBinary s.config.lutMul s

/-- `dbin.div` (40_digit_lut.md R101 with LUT_div, R133). -/
def execDbinDiv (s : State) : Answer := scalarBinary s.config.lutDiv s

/-- `dbin.bitand` (40_digit_lut.md R101 with LUT_bitand, R134). -/
def execDbinBitand (s : State) : Answer := scalarBinary s.config.lutBitand s

/-- `dbin.bitor` (40_digit_lut.md R101 with LUT_bitor, R135). -/
def execDbinBitor (s : State) : Answer := scalarBinary s.config.lutBitor s

/-- `dbin.bitxor` (40_digit_lut.md R101 with LUT_bitxor, R136). -/
def execDbinBitxor (s : State) : Answer := scalarBinary s.config.lutBitxor s

/-- `dbin.k3_equiv` (40_digit_lut.md R101 with LUT_k3_equiv, R137). -/
def execDbinK3Equiv (s : State) : Answer := scalarBinary s.config.lutK3Equiv s

/-- `dbin.k3_imply` (40_digit_lut.md R101 with LUT_k3_imply, R138). -/
def execDbinK3Imply (s : State) : Answer := scalarBinary s.config.lutK3Imply s

/-- `dbin.bi3_and` (40_digit_lut.md R101 with LUT_bi3_and, R139). -/
def execDbinBi3And (s : State) : Answer := scalarBinary s.config.lutBi3And s

/-- `dbin.bi3_or` (40_digit_lut.md R101 with LUT_bi3_or, R140). -/
def execDbinBi3Or (s : State) : Answer := scalarBinary s.config.lutBi3Or s

/-- `dbin.bi3_imply` (40_digit_lut.md R101 with LUT_bi3_imply, R141). -/
def execDbinBi3Imply (s : State) : Answer := scalarBinary s.config.lutBi3Imply s

/-- `dbin.l3_imply` (40_digit_lut.md R101 with LUT_l3_imply, R142). -/
def execDbinL3Imply (s : State) : Answer := scalarBinary s.config.lutL3Imply s

/-- `dbin.rm3_imply` (40_digit_lut.md R101 with LUT_rm3_imply, R143). -/
def execDbinRm3Imply (s : State) : Answer := scalarBinary s.config.lutRm3Imply s

/-- `dbin.para_imply` (40_digit_lut.md R101 with LUT_para_imply, R144). -/
def execDbinParaImply (s : State) : Answer := scalarBinary s.config.lutParaImply s

/-- `dbin.ht_imply` (40_digit_lut.md R101 with LUT_ht_imply, R145). -/
def execDbinHtImply (s : State) : Answer := scalarBinary s.config.lutHtImply s


end Sys2Proof.Machine
end

