-- ==== Sys2Proof/Machine/Dun.lean ====
section
/-! DEFINITION. The scalar unary digit commands `dun.op` (40_digit_lut.md R100), each with its table. -/

namespace Sys2Proof.Machine

/-- `dun.negation` (40_digit_lut.md R100 with LUT_negation, R110). -/
def execDunNegation (s : State) : Answer := scalarUnary s.config.lutNegation s

/-- `dun.possibly` (40_digit_lut.md R100 with LUT_possibly, R111). -/
def execDunPossibly (s : State) : Answer := scalarUnary s.config.lutPossibly s

/-- `dun.necessary` (40_digit_lut.md R100 with LUT_necessary, R112). -/
def execDunNecessary (s : State) : Answer := scalarUnary s.config.lutNecessary s

/-- `dun.contingently` (40_digit_lut.md R100 with LUT_contingently, R113). -/
def execDunContingently (s : State) : Answer := scalarUnary s.config.lutContingently s

/-- `dun.ht_not` (40_digit_lut.md R100 with LUT_ht_not, R114). -/
def execDunHtNot (s : State) : Answer := scalarUnary s.config.lutHtNot s

/-- `dun.post` (40_digit_lut.md R100 with LUT_post, R115). -/
def execDunPost (s : State) : Answer := scalarUnary s.config.lutPost s

/-- `dun.pre` (40_digit_lut.md R100 with LUT_pre, R116). -/
def execDunPre (s : State) : Answer := scalarUnary s.config.lutPre s

/-- `dun.absolute_positive` (40_digit_lut.md R100 with LUT_absolute_positive, R117). -/
def execDunAbsolutePositive (s : State) : Answer := scalarUnary s.config.lutAbsolutePositive s

/-- `dun.positive` (40_digit_lut.md R100 with LUT_positive, R118). -/
def execDunPositive (s : State) : Answer := scalarUnary s.config.lutPositive s

/-- `dun.not_negative` (40_digit_lut.md R100 with LUT_not_negative, R119). -/
def execDunNotNegative (s : State) : Answer := scalarUnary s.config.lutNotNegative s

/-- `dun.not_positive` (40_digit_lut.md R100 with LUT_not_positive, R120). -/
def execDunNotPositive (s : State) : Answer := scalarUnary s.config.lutNotPositive s

/-- `dun.negative` (40_digit_lut.md R100 with LUT_negative, R121). -/
def execDunNegative (s : State) : Answer := scalarUnary s.config.lutNegative s

/-- `dun.absolute_negative` (40_digit_lut.md R100 with LUT_absolute_negative, R122). -/
def execDunAbsoluteNegative (s : State) : Answer := scalarUnary s.config.lutAbsoluteNegative s

/-- `dun.inc` (40_digit_lut.md R100 with LUT_inc, R123). -/
def execDunInc (s : State) : Answer := scalarUnary s.config.lutInc s

/-- `dun.dec` (40_digit_lut.md R100 with LUT_dec, R124). -/
def execDunDec (s : State) : Answer := scalarUnary s.config.lutDec s


end Sys2Proof.Machine
end

