-- ==== Sys2Proof/Machine/Each.lean ====
section
/-! DEFINITION. The lanewise unary commands `each.op` (41_lanewise.md R150), each with its table. -/

namespace Sys2Proof.Machine

/-- `each.negation` (41_lanewise.md R150 with LUT_negation, 40_digit_lut.md R110). -/
def execEachNegation (s : State) : Answer := lanesUnary s.config.lutNegation s

/-- `each.possibly` (41_lanewise.md R150 with LUT_possibly, 40_digit_lut.md R111). -/
def execEachPossibly (s : State) : Answer := lanesUnary s.config.lutPossibly s

/-- `each.necessary` (41_lanewise.md R150 with LUT_necessary, 40_digit_lut.md R112). -/
def execEachNecessary (s : State) : Answer := lanesUnary s.config.lutNecessary s

/-- `each.contingently` (41_lanewise.md R150 with LUT_contingently, 40_digit_lut.md R113). -/
def execEachContingently (s : State) : Answer := lanesUnary s.config.lutContingently s

/-- `each.ht_not` (41_lanewise.md R150 with LUT_ht_not, 40_digit_lut.md R114). -/
def execEachHtNot (s : State) : Answer := lanesUnary s.config.lutHtNot s

/-- `each.post` (41_lanewise.md R150 with LUT_post, 40_digit_lut.md R115). -/
def execEachPost (s : State) : Answer := lanesUnary s.config.lutPost s

/-- `each.pre` (41_lanewise.md R150 with LUT_pre, 40_digit_lut.md R116). -/
def execEachPre (s : State) : Answer := lanesUnary s.config.lutPre s

/-- `each.absolute_positive` (41_lanewise.md R150 with LUT_absolute_positive, 40_digit_lut.md R117). -/
def execEachAbsolutePositive (s : State) : Answer := lanesUnary s.config.lutAbsolutePositive s

/-- `each.positive` (41_lanewise.md R150 with LUT_positive, 40_digit_lut.md R118). -/
def execEachPositive (s : State) : Answer := lanesUnary s.config.lutPositive s

/-- `each.not_negative` (41_lanewise.md R150 with LUT_not_negative, 40_digit_lut.md R119). -/
def execEachNotNegative (s : State) : Answer := lanesUnary s.config.lutNotNegative s

/-- `each.not_positive` (41_lanewise.md R150 with LUT_not_positive, 40_digit_lut.md R120). -/
def execEachNotPositive (s : State) : Answer := lanesUnary s.config.lutNotPositive s

/-- `each.negative` (41_lanewise.md R150 with LUT_negative, 40_digit_lut.md R121). -/
def execEachNegative (s : State) : Answer := lanesUnary s.config.lutNegative s

/-- `each.absolute_negative` (41_lanewise.md R150 with LUT_absolute_negative, 40_digit_lut.md R122). -/
def execEachAbsoluteNegative (s : State) : Answer := lanesUnary s.config.lutAbsoluteNegative s

/-- `each.inc` (41_lanewise.md R150 with LUT_inc, 40_digit_lut.md R123). -/
def execEachInc (s : State) : Answer := lanesUnary s.config.lutInc s

/-- `each.dec` (41_lanewise.md R150 with LUT_dec, 40_digit_lut.md R124). -/
def execEachDec (s : State) : Answer := lanesUnary s.config.lutDec s


end Sys2Proof.Machine
end

