-- ==== Sys2Proof/Machine/Eachw.lean ====
section
/-! DEFINITION. The lanewise commands with a fixed right digit, `eachw.op d` (41_lanewise.md R151), each with its table. -/

namespace Sys2Proof.Machine

/-- `eachw.add d` (41_lanewise.md R151 with LUT_add, 40_digit_lut.md R130). -/
def execEachwAdd (d : Trit) (s : State) : Answer := lanesBinary s.config.lutAdd (fun _ => d) s

/-- `eachw.sub d` (41_lanewise.md R151 with LUT_sub, 40_digit_lut.md R131). -/
def execEachwSub (d : Trit) (s : State) : Answer := lanesBinary s.config.lutSub (fun _ => d) s

/-- `eachw.mul d` (41_lanewise.md R151 with LUT_mul, 40_digit_lut.md R132). -/
def execEachwMul (d : Trit) (s : State) : Answer := lanesBinary s.config.lutMul (fun _ => d) s

/-- `eachw.div d` (41_lanewise.md R151 with LUT_div, 40_digit_lut.md R133). -/
def execEachwDiv (d : Trit) (s : State) : Answer := lanesBinary s.config.lutDiv (fun _ => d) s

/-- `eachw.bitand d` (41_lanewise.md R151 with LUT_bitand, 40_digit_lut.md R134). -/
def execEachwBitand (d : Trit) (s : State) : Answer := lanesBinary s.config.lutBitand (fun _ => d) s

/-- `eachw.bitor d` (41_lanewise.md R151 with LUT_bitor, 40_digit_lut.md R135). -/
def execEachwBitor (d : Trit) (s : State) : Answer := lanesBinary s.config.lutBitor (fun _ => d) s

/-- `eachw.bitxor d` (41_lanewise.md R151 with LUT_bitxor, 40_digit_lut.md R136). -/
def execEachwBitxor (d : Trit) (s : State) : Answer := lanesBinary s.config.lutBitxor (fun _ => d) s

/-- `eachw.k3_equiv d` (41_lanewise.md R151 with LUT_k3_equiv, 40_digit_lut.md R137). -/
def execEachwK3Equiv (d : Trit) (s : State) : Answer := lanesBinary s.config.lutK3Equiv (fun _ => d) s

/-- `eachw.k3_imply d` (41_lanewise.md R151 with LUT_k3_imply, 40_digit_lut.md R138). -/
def execEachwK3Imply (d : Trit) (s : State) : Answer := lanesBinary s.config.lutK3Imply (fun _ => d) s

/-- `eachw.bi3_and d` (41_lanewise.md R151 with LUT_bi3_and, 40_digit_lut.md R139). -/
def execEachwBi3And (d : Trit) (s : State) : Answer := lanesBinary s.config.lutBi3And (fun _ => d) s

/-- `eachw.bi3_or d` (41_lanewise.md R151 with LUT_bi3_or, 40_digit_lut.md R140). -/
def execEachwBi3Or (d : Trit) (s : State) : Answer := lanesBinary s.config.lutBi3Or (fun _ => d) s

/-- `eachw.bi3_imply d` (41_lanewise.md R151 with LUT_bi3_imply, 40_digit_lut.md R141). -/
def execEachwBi3Imply (d : Trit) (s : State) : Answer := lanesBinary s.config.lutBi3Imply (fun _ => d) s

/-- `eachw.l3_imply d` (41_lanewise.md R151 with LUT_l3_imply, 40_digit_lut.md R142). -/
def execEachwL3Imply (d : Trit) (s : State) : Answer := lanesBinary s.config.lutL3Imply (fun _ => d) s

/-- `eachw.rm3_imply d` (41_lanewise.md R151 with LUT_rm3_imply, 40_digit_lut.md R143). -/
def execEachwRm3Imply (d : Trit) (s : State) : Answer := lanesBinary s.config.lutRm3Imply (fun _ => d) s

/-- `eachw.para_imply d` (41_lanewise.md R151 with LUT_para_imply, 40_digit_lut.md R144). -/
def execEachwParaImply (d : Trit) (s : State) : Answer := lanesBinary s.config.lutParaImply (fun _ => d) s

/-- `eachw.ht_imply d` (41_lanewise.md R151 with LUT_ht_imply, 40_digit_lut.md R145). -/
def execEachwHtImply (d : Trit) (s : State) : Answer := lanesBinary s.config.lutHtImply (fun _ => d) s


end Sys2Proof.Machine
end

