-- ==== Sys2Proof/Machine/Zip.lean ====
section
/-! DEFINITION. The lanewise binary commands `zip.op` (41_lanewise.md R152), each with its table: A left, B right. -/

namespace Sys2Proof.Machine

/-- `zip.add` (41_lanewise.md R152 with LUT_add, 40_digit_lut.md R130). -/
def execZipAdd (s : State) : Answer := lanesBinary s.config.lutAdd s.b.get s

/-- `zip.sub` (41_lanewise.md R152 with LUT_sub, 40_digit_lut.md R131). -/
def execZipSub (s : State) : Answer := lanesBinary s.config.lutSub s.b.get s

/-- `zip.mul` (41_lanewise.md R152 with LUT_mul, 40_digit_lut.md R132). -/
def execZipMul (s : State) : Answer := lanesBinary s.config.lutMul s.b.get s

/-- `zip.div` (41_lanewise.md R152 with LUT_div, 40_digit_lut.md R133). -/
def execZipDiv (s : State) : Answer := lanesBinary s.config.lutDiv s.b.get s

/-- `zip.bitand` (41_lanewise.md R152 with LUT_bitand, 40_digit_lut.md R134). -/
def execZipBitand (s : State) : Answer := lanesBinary s.config.lutBitand s.b.get s

/-- `zip.bitor` (41_lanewise.md R152 with LUT_bitor, 40_digit_lut.md R135). -/
def execZipBitor (s : State) : Answer := lanesBinary s.config.lutBitor s.b.get s

/-- `zip.bitxor` (41_lanewise.md R152 with LUT_bitxor, 40_digit_lut.md R136). -/
def execZipBitxor (s : State) : Answer := lanesBinary s.config.lutBitxor s.b.get s

/-- `zip.k3_equiv` (41_lanewise.md R152 with LUT_k3_equiv, 40_digit_lut.md R137). -/
def execZipK3Equiv (s : State) : Answer := lanesBinary s.config.lutK3Equiv s.b.get s

/-- `zip.k3_imply` (41_lanewise.md R152 with LUT_k3_imply, 40_digit_lut.md R138). -/
def execZipK3Imply (s : State) : Answer := lanesBinary s.config.lutK3Imply s.b.get s

/-- `zip.bi3_and` (41_lanewise.md R152 with LUT_bi3_and, 40_digit_lut.md R139). -/
def execZipBi3And (s : State) : Answer := lanesBinary s.config.lutBi3And s.b.get s

/-- `zip.bi3_or` (41_lanewise.md R152 with LUT_bi3_or, 40_digit_lut.md R140). -/
def execZipBi3Or (s : State) : Answer := lanesBinary s.config.lutBi3Or s.b.get s

/-- `zip.bi3_imply` (41_lanewise.md R152 with LUT_bi3_imply, 40_digit_lut.md R141). -/
def execZipBi3Imply (s : State) : Answer := lanesBinary s.config.lutBi3Imply s.b.get s

/-- `zip.l3_imply` (41_lanewise.md R152 with LUT_l3_imply, 40_digit_lut.md R142). -/
def execZipL3Imply (s : State) : Answer := lanesBinary s.config.lutL3Imply s.b.get s

/-- `zip.rm3_imply` (41_lanewise.md R152 with LUT_rm3_imply, 40_digit_lut.md R143). -/
def execZipRm3Imply (s : State) : Answer := lanesBinary s.config.lutRm3Imply s.b.get s

/-- `zip.para_imply` (41_lanewise.md R152 with LUT_para_imply, 40_digit_lut.md R144). -/
def execZipParaImply (s : State) : Answer := lanesBinary s.config.lutParaImply s.b.get s

/-- `zip.ht_imply` (41_lanewise.md R152 with LUT_ht_imply, 40_digit_lut.md R145). -/
def execZipHtImply (s : State) : Answer := lanesBinary s.config.lutHtImply s.b.get s


end Sys2Proof.Machine
end

