-- ==== Sys2Proof/Machine/Dispatch.lean ====
section
/-! DEFINITION. The meaning of every command: one arm per constructor of Instr. -/

namespace Sys2Proof.Machine

def exec (i : Instr) (s : State) : Host.Outcome State Fault Refusal :=
  match i with
  | .dunNegation => Sys2Proof.Machine.execDunNegation s
  | .dunPossibly => Sys2Proof.Machine.execDunPossibly s
  | .dunNecessary => Sys2Proof.Machine.execDunNecessary s
  | .dunContingently => Sys2Proof.Machine.execDunContingently s
  | .dunHtNot => Sys2Proof.Machine.execDunHtNot s
  | .dunPost => Sys2Proof.Machine.execDunPost s
  | .dunPre => Sys2Proof.Machine.execDunPre s
  | .dunAbsolutePositive => Sys2Proof.Machine.execDunAbsolutePositive s
  | .dunPositive => Sys2Proof.Machine.execDunPositive s
  | .dunNotNegative => Sys2Proof.Machine.execDunNotNegative s
  | .dunNotPositive => Sys2Proof.Machine.execDunNotPositive s
  | .dunNegative => Sys2Proof.Machine.execDunNegative s
  | .dunAbsoluteNegative => Sys2Proof.Machine.execDunAbsoluteNegative s
  | .dunInc => Sys2Proof.Machine.execDunInc s
  | .dunDec => Sys2Proof.Machine.execDunDec s
  | .dbinAdd => Sys2Proof.Machine.execDbinAdd s
  | .dbinSub => Sys2Proof.Machine.execDbinSub s
  | .dbinMul => Sys2Proof.Machine.execDbinMul s
  | .dbinDiv => Sys2Proof.Machine.execDbinDiv s
  | .dbinBitand => Sys2Proof.Machine.execDbinBitand s
  | .dbinBitor => Sys2Proof.Machine.execDbinBitor s
  | .dbinBitxor => Sys2Proof.Machine.execDbinBitxor s
  | .dbinK3Equiv => Sys2Proof.Machine.execDbinK3Equiv s
  | .dbinK3Imply => Sys2Proof.Machine.execDbinK3Imply s
  | .dbinBi3And => Sys2Proof.Machine.execDbinBi3And s
  | .dbinBi3Or => Sys2Proof.Machine.execDbinBi3Or s
  | .dbinBi3Imply => Sys2Proof.Machine.execDbinBi3Imply s
  | .dbinL3Imply => Sys2Proof.Machine.execDbinL3Imply s
  | .dbinRm3Imply => Sys2Proof.Machine.execDbinRm3Imply s
  | .dbinParaImply => Sys2Proof.Machine.execDbinParaImply s
  | .dbinHtImply => Sys2Proof.Machine.execDbinHtImply s
  | .eachNegation => Sys2Proof.Machine.execEachNegation s
  | .eachPossibly => Sys2Proof.Machine.execEachPossibly s
  | .eachNecessary => Sys2Proof.Machine.execEachNecessary s
  | .eachContingently => Sys2Proof.Machine.execEachContingently s
  | .eachHtNot => Sys2Proof.Machine.execEachHtNot s
  | .eachPost => Sys2Proof.Machine.execEachPost s
  | .eachPre => Sys2Proof.Machine.execEachPre s
  | .eachAbsolutePositive => Sys2Proof.Machine.execEachAbsolutePositive s
  | .eachPositive => Sys2Proof.Machine.execEachPositive s
  | .eachNotNegative => Sys2Proof.Machine.execEachNotNegative s
  | .eachNotPositive => Sys2Proof.Machine.execEachNotPositive s
  | .eachNegative => Sys2Proof.Machine.execEachNegative s
  | .eachAbsoluteNegative => Sys2Proof.Machine.execEachAbsoluteNegative s
  | .eachInc => Sys2Proof.Machine.execEachInc s
  | .eachDec => Sys2Proof.Machine.execEachDec s
  | .eachwAdd d => Sys2Proof.Machine.execEachwAdd d s
  | .eachwSub d => Sys2Proof.Machine.execEachwSub d s
  | .eachwMul d => Sys2Proof.Machine.execEachwMul d s
  | .eachwDiv d => Sys2Proof.Machine.execEachwDiv d s
  | .eachwBitand d => Sys2Proof.Machine.execEachwBitand d s
  | .eachwBitor d => Sys2Proof.Machine.execEachwBitor d s
  | .eachwBitxor d => Sys2Proof.Machine.execEachwBitxor d s
  | .eachwK3Equiv d => Sys2Proof.Machine.execEachwK3Equiv d s
  | .eachwK3Imply d => Sys2Proof.Machine.execEachwK3Imply d s
  | .eachwBi3And d => Sys2Proof.Machine.execEachwBi3And d s
  | .eachwBi3Or d => Sys2Proof.Machine.execEachwBi3Or d s
  | .eachwBi3Imply d => Sys2Proof.Machine.execEachwBi3Imply d s
  | .eachwL3Imply d => Sys2Proof.Machine.execEachwL3Imply d s
  | .eachwRm3Imply d => Sys2Proof.Machine.execEachwRm3Imply d s
  | .eachwParaImply d => Sys2Proof.Machine.execEachwParaImply d s
  | .eachwHtImply d => Sys2Proof.Machine.execEachwHtImply d s
  | .zipAdd => Sys2Proof.Machine.execZipAdd s
  | .zipSub => Sys2Proof.Machine.execZipSub s
  | .zipMul => Sys2Proof.Machine.execZipMul s
  | .zipDiv => Sys2Proof.Machine.execZipDiv s
  | .zipBitand => Sys2Proof.Machine.execZipBitand s
  | .zipBitor => Sys2Proof.Machine.execZipBitor s
  | .zipBitxor => Sys2Proof.Machine.execZipBitxor s
  | .zipK3Equiv => Sys2Proof.Machine.execZipK3Equiv s
  | .zipK3Imply => Sys2Proof.Machine.execZipK3Imply s
  | .zipBi3And => Sys2Proof.Machine.execZipBi3And s
  | .zipBi3Or => Sys2Proof.Machine.execZipBi3Or s
  | .zipBi3Imply => Sys2Proof.Machine.execZipBi3Imply s
  | .zipL3Imply => Sys2Proof.Machine.execZipL3Imply s
  | .zipRm3Imply => Sys2Proof.Machine.execZipRm3Imply s
  | .zipParaImply => Sys2Proof.Machine.execZipParaImply s
  | .zipHtImply => Sys2Proof.Machine.execZipHtImply s
  | .add => Sys2Proof.Machine.execAdd s
  | .sub => Sys2Proof.Machine.execSub s
  | .mul => Sys2Proof.Machine.execMul s
  | .div => Sys2Proof.Machine.execDiv s
  | .cmp => Sys2Proof.Machine.execCmp s
  | .shl k => Sys2Proof.Machine.execShl k s
  | .shr k => Sys2Proof.Machine.execShr k s
  | .fromdec => Sys2Proof.Machine.execFromdec s
  | .todec => Sys2Proof.Machine.execTodec s
  | .movAR => Sys2Proof.Machine.execMovAR s
  | .movBR => Sys2Proof.Machine.execMovBR s
  | .movAR2 => Sys2Proof.Machine.execMovAR2 s
  | .movBR2 => Sys2Proof.Machine.execMovBR2 s
  | .cenc => Sys2Proof.Machine.execCenc s
  | .cdec => Sys2Proof.Machine.execCdec s
  | .wenc => Sys2Proof.Machine.execWenc s
  | .wdec => Sys2Proof.Machine.execWdec s
  | .pack n => Sys2Proof.Machine.execPack n s
  | .unpack n => Sys2Proof.Machine.execUnpack n s

end Sys2Proof.Machine
end

