-- ==== Sys2Proof/Machine/Operands.lean ====
section
/-! DEFINITION. How registers are reached from outside: the map of the register window (20_memory.md R51), reading a
register (10_state.md R24 to R27) and writing one (R23, R25, R31). -/

namespace Sys2Proof.Machine

/-- The rows of the register window's map (20_memory.md R51). -/
inductive WindowReg where
  | aLo
  | aHi
  | bLo
  | bHi
  | rLo
  | rHi
  | r2Lo
  | r2Hi
  | x
  | cmd
  | status
  | reserved
deriving DecidableEq, Repr

/-- The register at an offset of the window that is a multiple of 8 (20_memory.md R51). -/
def windowReg (off : Nat) : WindowReg :=
  match off with
  | 0x00 => .aLo
  | 0x08 => .aHi
  | 0x10 => .bLo
  | 0x18 => .bHi
  | 0x20 => .rLo
  | 0x28 => .rHi
  | 0x30 => .r2Lo
  | 0x38 => .r2Hi
  | 0x40 => .x
  | 0x48 => .cmd
  | 0x50 => .status
  | _ => .reserved

/-- The offset of CMD (20_memory.md R51). -/
def cmdOffset : Nat := 0x48

/-- The LO half of a vector register: trit `i` in bits `2i+1:2i` (10_state.md R24). -/
def loWord (t : TVec) : Word := BitVec.ofNat 64 (pairsNat (t.digits.take 32))

/-- The HI half: trit `32+i` in bits `2i+1:2i`, bits 63:16 are 0 (10_state.md R24). -/
def hiWord (t : TVec) : Word := BitVec.ofNat 64 (pairsNat (t.digits.drop 32))

/-- What a host read of a register returns (10_state.md R24, R25, R26, R27; 20_memory.md R54). -/
def readReg (g : WindowReg) (s : State) : Word :=
  match g with
  | .aLo => loWord s.a
  | .aHi => hiWord s.a
  | .bLo => loWord s.b
  | .bHi => hiWord s.b
  | .rLo => loWord s.r
  | .rHi => hiWord s.r
  | .r2Lo => loWord s.r2
  | .r2Hi => hiWord s.r2
  | .x => s.x
  | .cmd => s.cmd
  | .status => statusWord s
  | .reserved => 0#64

/-- `p[i] = v[2i+1:2i]` (10_state.md R23). -/
def pairAt (v : Word) (i : Nat) : BitVec 2 := v.extractLsb' (2 * i) 2

/-- Whether one of the `n` pairs of a half is the illegal pair 10 (10_state.md R23). -/
def illegalPair (v : Word) (n : Nat) : Bool := (List.range n).any fun i => decide (pairAt v i = 0b10#2)

/-- The trit of a pair; a pair is read only after `illegalPair` has refused. -/
def pairTrit (p : BitVec 2) : Trit := (Trit.ofPair p).getD .zero

/-- A vector with the `n` trits from `base` on replaced by the pairs of `v` (10_state.md R23). -/
def withHalf (t : TVec) (base n : Nat) (v : Word) : TVec :=
  TVec.ofFn fun i => if base ≤ i ∧ i < base + n then pairTrit (pairAt v (i - base)) else t.get i

/-- A host write of half a vector register that `set` stores into: refused whole when a pair is illegal
(10_state.md R23). -/
def writeHalf (t : TVec) (base n : Nat) (v : Word) (set : TVec → State → State) (s : State) : State :=
  if illegalPair v n then s.raiseError .codec else set (withHalf t base n v) s

/-- The absolute address of a window offset (20_memory.md R50). -/
def State.addrOf (s : State) (off : Nat) : Nat := s.config.tdlBase + off

/-- Byte `addr` of the window, little-endian (20_memory.md R52): `none` outside the window. -/
def windowByte (s : State) (addr : Nat) : Option (BitVec 8) :=
  if s.config.tdlBase ≤ addr ∧ addr < s.config.tdlBase + 256 then
    some ((readReg (windowReg ((addr - s.config.tdlBase) / 8 * 8)) s).extractLsb' (8 * ((addr - s.config.tdlBase) % 8)) 8)
  else none

end Sys2Proof.Machine
end

