-- ==== Sys2Proof/Machine/Access.lean ====
section
/-! DEFINITION. Serving one host event: reads and writes of the register window, the execution of a command word, and
reset (20_memory.md R50 to R57; 70_reset_and_hazards.md R300, R321). This is the whole of what a step does. -/

namespace Sys2Proof.Machine

/-- The host asked for a word and gets it back (70_reset_and_hazards.md R321). -/
def State.setReply (v : Word) (s : State) : State := { s with reply := some v }

/-- The next host event is taken from the pending ones; nothing is returned to the host yet (log 1, 3). -/
def State.takeInput (rest : List HostEvent) (s : State) : State := { s with inputs := rest, reply := none }

/-- Every register at its value after reset; parameters and pending events are no registers
(70_reset_and_hazards.md R300; log 9). -/
def State.resetRegisters (s : State) : State := { State.reset with config := s.config, inputs := s.inputs }

/-- Executing a command word: its command's meaning, or IllegalCommand when R70 does not decode it (30_encoding.md R70). -/
def runWord (w : Word) (s : State) : Answer :=
  match decode w with
  | .ok i => exec i s
  | .error _ => fail .illegal s

/-- A host write of CMD: the word is stored first, then executed to completion (10_state.md R26). -/
def writeCmd (w : Word) (s : State) : Answer := runWord w (s.setCmd w)

/-- A host write of a register (20_memory.md R57; 10_state.md R22, R23, R25, R26, R31). -/
def writeReg (g : WindowReg) (v : Word) (s : State) : Answer :=
  match g with
  | .aLo => .next (writeHalf s.a 0 32 v State.setA s)
  | .aHi => .next (writeHalf s.a 32 8 v State.setA s)
  | .bLo => .next (writeHalf s.b 0 32 v State.setB s)
  | .bHi => .next (writeHalf s.b 32 8 v State.setB s)
  | .rLo => .next s
  | .rHi => .next s
  | .r2Lo => .next s
  | .r2Hi => .next s
  | .x => .next (s.setX v)
  | .cmd => writeCmd v s
  | .status => .next (s.clearSticky v)
  | .reserved => .next s

/-- Admitting an access: `use` serves it at the register its offset selects, when it has a step
(20_memory.md R50, R53; 70_reset_and_hazards.md R321; log 7, 12). -/
def serveAccess (addr width : Nat) (use : WindowReg → State → Answer) (s : State) : Answer :=
  if addr < s.config.tdlBase ∨ s.config.tdlBase + 256 ≤ addr then .fault .outsideWindow
  else if width ≠ 8 then .fault .accessWidth
  else if (addr - s.config.tdlBase) % 8 ≠ 0 then .fault .misaligned
  else use (windowReg (addr - s.config.tdlBase)) s

/-- A host read: the register's word is returned and nothing changes (20_memory.md R57). -/
def readAnswer (g : WindowReg) (s : State) : Answer := .next (s.setReply (readReg g s))

/-- Serving one event of the host or the platform. -/
def serve (e : HostEvent) (s : State) : Answer :=
  match e with
  | .read addr width => serveAccess addr width readAnswer s
  | .write addr width v => serveAccess addr width (fun g => writeReg g v) s
  | .reset => .next s.resetRegisters

/-- One step of TDL40: the oldest pending event is served to completion; with none pending TDL40 waits
(20_memory.md R55; 70_reset_and_hazards.md R301; log 2). -/
def serveNext (s : State) : Answer :=
  match s.inputs with
  | [] => .next s
  | e :: rest => serve e (s.takeInput rest)

/-- The host write that delivers a command word to CMD (30_encoding.md R78). -/
def cmdWrite (s : State) (w : Word) : HostEvent := .write (s.addrOf cmdOffset) 8 w

end Sys2Proof.Machine
end

