-- ==== Sys2Proof/Machine/Step.lean ====
section
/-! DEFINITION. The step of TDL40, and the placing of a command where the next step takes it from. -/

namespace Sys2Proof.Machine

/-- One step (70_reset_and_hazards.md R321: one step per host access). -/
def step (s : State) : Host.Outcome State Fault Refusal := serveNext s

/-- The state in which the host's next access writes the command word `w` (its low `nbits` bits) to CMD. TDL40 fetches
nothing (10_state.md R20): a command comes to run only through this access (log 10). -/
def State.withFetchWord (s : State) (nbits w : Nat) : State :=
  { s with inputs := cmdWrite s (BitVec.ofNat 64 (w % 2 ^ nbits)) :: s.inputs }

end Sys2Proof.Machine
end

