-- ==== Sys2Proof/Safety.lean ====
section
/-! DEFINITION. What holds of TDL40 in every state a run can reach, and the terms the statements use: the next states that
the rules describe written out as plain records, and the rules' own formulas for the digit operations and for the causes of
errors. -/

namespace Sys2Proof.Machine

/-- STATUS.ERR holds a code that some rule writes: never ParseError, never the reserved 7 (10_state.md R28). -/
def State.errLegal (s : State) : Prop := s.err ≠ 1#3 ∧ s.err ≠ 7#3

/-- STATUS bits 8, 9 and 15 are never set (10_state.md R31, 60_exceptions.md R252). -/
def State.stickyLegal (s : State) : Prop :=
  s.sticky.getLsbD 0 = false ∧ s.sticky.getLsbD 1 = false ∧ s.sticky.getLsbD 7 = false

/-- The invariant of a TDL40 run: ERR and STICKY hold only what the rules write, and the tables are admissible. -/
def State.Inv (s : State) : Prop := s.errLegal ∧ s.stickyLegal ∧ s.config.lawful = true

/-- A step that the spec has a row for: it answers a next state (70_reset_and_hazards.md R321). -/
def answersNext (o : Answer) : Prop := ∃ t, o = .next t

/-- The state after a successful command whose only destination is R: C and OV as given, ERR 0, the rest as before. -/
def afterR (s : State) (r : TVec) (c : Trit) (ov : Bool) : State := { s with r := r, c := c, ov := ov, err := 0#3 }

/-- The state after a successful command whose destinations are R and R2. -/
def afterR2 (s : State) (r r2 : TVec) (ov : Bool) : State :=
  { s with r := r, r2 := r2, c := .zero, ov := ov, err := 0#3 }

/-- The state after a successful command whose only destination is X. -/
def afterX (s : State) (x : Word) : State := { s with x := x, c := .zero, ov := false, err := 0#3 }

/-- The state after an error of code `e`: ERR and its STICKY bit, the rest as before (60_exceptions.md R256). -/
def afterError (s : State) (e : Nat) : State :=
  { s with err := BitVec.ofNat 3 e, sticky := s.sticky ||| (1#8 <<< e) }

/-- The state in which the host's access has been taken from the pending ones and nothing has been returned. -/
def taken (s : State) (rest : List HostEvent) : State := { s with inputs := rest, reply := none }

/-- The host's next access writes `v` to the register at the window's offset `off`; `rest` comes after it. -/
def writesNext (s : State) (off : Nat) (v : Word) (rest : List HostEvent) : Prop :=
  s.inputs = .write (s.config.tdlBase + off) 8 v :: rest

/-- The host's next access reads the register at the window's offset `off`. -/
def readsNext (s : State) (off : Nat) (rest : List HostEvent) : Prop :=
  s.inputs = .read (s.config.tdlBase + off) 8 :: rest

/-- The rules' pseudocode for each unary digit operation's value, on integers (40_digit_lut.md R110 to R124). -/
def unaryFormula (o : UnOp) (a : Int) : Int :=
  match o with
  | .negation => -a
  | .possibly => if a = -1 then -1 else 1
  | .necessary => if a = 1 then 1 else -1
  | .contingently => if a = 0 then 1 else -1
  | .htNot => if a = -1 then 1 else -1
  | .post => (a + 2) % 3 - 1
  | .pre => a % 3 - 1
  | .absolutePositive => (a.natAbs : Int)
  | .positive => max a 0
  | .notNegative => if a = -1 then 0 else 1
  | .notPositive => if a = 1 then 0 else -1
  | .negative => min a 0
  | .absoluteNegative => -(a.natAbs : Int)
  | .inc => (a + 2) % 3 - 1
  | .dec => a % 3 - 1

/-- The rules' pseudocode for each binary digit operation's value, on integers (40_digit_lut.md R130 to R145). -/
def binaryFormula (o : BinOp) (a b : Int) : Int :=
  match o with
  | .add => (a + b + 1) % 3 - 1
  | .sub => (a - b + 1) % 3 - 1
  | .mul => a * b
  | .div => a * b
  | .bitand => min a b
  | .bitor => max a b
  | .bitxor => -(a * b)
  | .k3Equiv => a * b
  | .k3Imply => max (-a) b
  | .bi3And => if a = 0 ∨ b = 0 then 0 else min a b
  | .bi3Or => if a = 0 ∨ b = 0 then 0 else max a b
  | .bi3Imply => if a = 0 ∨ b = 0 then 0 else max (-a) b
  | .l3Imply => min 1 (1 - a + b)
  | .rm3Imply => if a ≤ b then max (-a) b else min (-a) b
  | .paraImply => if a = -1 then 1 else b
  | .htImply => if a ≤ b then 1 else b

/-- The error code a decoded command ends with, by the table of 60_exceptions.md R250 under admissible tables; 0 is
success. Each cause is written as the table gives it. -/
def errorCode (i : Instr) (s : State) : Nat :=
  match i with
  | .div => if s.b.val = 0 then 2 else 0
  | .dbinDiv => if s.b.get 0 = .zero then 3 else 0
  | .eachwDiv d => if d = .zero then 3 else 0
  | .zipDiv => if (List.range 40).any (fun j => decide (s.b.get j = .zero)) then 3 else 0
  | .cdec => if s.x.toNat > 242 then 4 else 0
  | .wdec => if s.x.toNat ≥ 3 ^ 40 then 4 else 0
  | .unpack n =>
    if (List.range ((n + 4) / 5)).any (fun c => decide (byteOf s.x c > 242) ||
        (List.range 5).any (fun j => decide (5 * c + j ≥ n) && decide (byteOf s.x c / 3 ^ j % 3 ≠ 1))) then 4 else 0
  | .fromdec => if s.x.toInt.natAbs > 6078832729528464400 then 5 else 0
  | _ => 0

/-- The commands that move a result register into an operand register (43_convert_move.md R205). -/
def isMov : Instr → Bool
  | .movAR => true
  | .movBR => true
  | .movAR2 => true
  | .movBR2 => true
  | _ => false

end Sys2Proof.Machine
end

