-- ==== Sys2Proof/Certificates/Slice0/Obligations.lean ====
section
/-! DEFINITION. The statements about the model. -/

open Sys2Proof Sys2Proof.Machine

/-! ## Reset and the host interface -/

/-- R34: after reset every register is Zero40 or 0, and so reads every half. -/
def Obligations.ResetLeavesEveryRegisterZero : Prop :=
  State.reset.a = zero40 ∧ State.reset.b = zero40 ∧ State.reset.r = zero40 ∧ State.reset.r2 = zero40 ∧
  State.reset.x = 0#64 ∧ State.reset.cmd = 0#64 ∧
  State.reset.err = 0#3 ∧ State.reset.c = .zero ∧ State.reset.ov = false ∧ State.reset.sticky = 0#8 ∧
  ∀ g, readReg g State.reset = 0#64

/-- R300: when reset ends every register has its reset value and no state survives; parameters and the host's later
accesses are not the unit's state (log 9). -/
def Obligations.ResetEventClearsEveryRegister : Prop :=
  ∀ (s : State) (rest : List HostEvent), s.inputs = .reset :: rest →
    step s = .next { State.reset with config := s.config, inputs := rest }

/-- R26: a CMD write stores the word and then runs its command, as exec does, to completion; CMD holds the word whatever
the outcome; a read of CMD returns it and changes nothing. -/
def Obligations.CmdWriteRunsTheDecodedCommand : Prop :=
  (∀ (s : State) (w : Word) (rest : List HostEvent) (i : Instr), writesNext s 0x48 w rest → decode w = .ok i →
    step s = exec i { taken s rest with cmd := w }) ∧
  (∀ (s : State) (w : Word) (rest : List HostEvent), writesNext s 0x48 w rest →
    ∃ t, step s = .next t ∧ t.cmd = w) ∧
  (∀ (s : State) (rest : List HostEvent), readsNext s 0x48 rest →
    step s = .next { taken s rest with reply := some s.cmd })

/-- R255: a CMD write whose word does not decode changes CMD, ERR and STICKY bit 14 only. -/
def Obligations.IllegalWordChangesOnlyErrorState : Prop :=
  ∀ (s : State) (w : Word) (rest : List HostEvent) (e : DecodeReject), writesNext s 0x48 w rest → decode w = .error e →
    step s = .next { taken s rest with cmd := w, err := 6#3, sticky := s.sticky ||| 0x40#8 }

/-- R53: an access to the window has a step exactly when it is 8 bytes wide at an offset that is a multiple of 8;
otherwise the step stops with a fault. -/
def Obligations.OnlyAlignedEightByteAccessesHaveAStep : Prop :=
  ∀ (s : State) (off width : Nat) (v : Word) (rest : List HostEvent) (e : HostEvent), off < 256 →
    (e = .read (s.config.tdlBase + off) width ∨ e = .write (s.config.tdlBase + off) width v) → s.inputs = e :: rest →
    (width = 8 ∧ off % 8 = 0 → ∃ t, step s = .next t) ∧
    (¬ (width = 8 ∧ off % 8 = 0) → ∃ f, step s = .fault f)

/-- R55: accesses are served one at a time in order: a step that answers a next state has served the oldest event and no
other, and it leaves the parameters alone; with none pending nothing changes (log 2). -/
def Obligations.OneAccessIsServedPerStep : Prop :=
  (∀ (s t : State) (e : HostEvent) (rest : List HostEvent), s.inputs = e :: rest → step s = .next t →
    t.inputs = rest ∧ t.config = s.config) ∧
  (∀ s : State, s.inputs = [] → step s = .next s)

/-- R51, R57: a read of any offset of the window returns the register of the map and has no side effect. -/
def Obligations.ReadsReturnTheMappedRegister : Prop :=
  ∀ (s : State) (off : Nat) (rest : List HostEvent), off < 256 → off % 8 = 0 → readsNext s off rest →
    ∃ v : Word, step s = .next { taken s rest with reply := some v } ∧
      v = (if off = 0x00 then loWord s.a else if off = 0x08 then hiWord s.a
        else if off = 0x10 then loWord s.b else if off = 0x18 then hiWord s.b
        else if off = 0x20 then loWord s.r else if off = 0x28 then hiWord s.r
        else if off = 0x30 then loWord s.r2 else if off = 0x38 then hiWord s.r2
        else if off = 0x40 then s.x else if off = 0x48 then s.cmd
        else if off = 0x50 then statusWord s else 0#64)

/-- R24: a read of a half of a vector register returns a word with trit `i` (or `32+i`) in bits `2i+1:2i`, bits 63:16 of a
HI half 0, and has no side effect. -/
def Obligations.HalvesHoldTheTritPairs : Prop :=
  ∀ (s : State) (rest : List HostEvent) (t : TVec) (off : Nat),
    off = 0x00 ∧ t = s.a ∨ off = 0x10 ∧ t = s.b ∨ off = 0x20 ∧ t = s.r ∨ off = 0x30 ∧ t = s.r2 →
    (readsNext s off rest → ∃ v : Word, step s = .next { taken s rest with reply := some v } ∧
      ∀ i, i < 32 → v.extractLsb' (2 * i) 2 = (t.get i).pair) ∧
    (readsNext s (off + 8) rest → ∃ v : Word, step s = .next { taken s rest with reply := some v } ∧
      (∀ i, i < 8 → v.extractLsb' (2 * i) 2 = (t.get (32 + i)).pair) ∧ v.extractLsb' 16 48 = 0#48)

/-- R23: a host write of a half without the pair 10 stores its pairs in that half's trits and changes nothing else; a half
with that pair is refused whole with CodecError. -/
def Obligations.HalfWritesStoreOrRefuse : Prop :=
  ∀ (s : State) (v : Word) (rest : List HostEvent) (off base n : Nat),
    ((off = 0x00 ∨ off = 0x10) ∧ base = 0 ∧ n = 32) ∨ ((off = 0x08 ∨ off = 0x18) ∧ base = 32 ∧ n = 8) →
    writesNext s off v rest →
    ((∀ i, i < n → v.extractLsb' (2 * i) 2 ≠ 0b10#2) →
      ∃ u : TVec, step s = .next (if off < 0x10 then { taken s rest with a := u } else { taken s rest with b := u }) ∧
        (∀ i, i < n → (u.get (base + i)).pair = v.extractLsb' (2 * i) 2) ∧
        (∀ j, j < 40 → j < base ∨ base + n ≤ j → u.get j = (if off < 0x10 then s.a else s.b).get j)) ∧
    ((∃ i, i < n ∧ v.extractLsb' (2 * i) 2 = 0b10#2) → step s = .next (afterError (taken s rest) 4))

/-- A half that was written without being refused reads back as written; of a HI half the bits 15:0 do. -/
def Obligations.HalfWriteThenReadReturnsTheWord : Prop :=
  ∀ (t : TVec) (v : Word),
    (illegalPair v 32 = false → loWord (withHalf t 0 32 v) = v ∧ hiWord (withHalf t 0 32 v) = hiWord t) ∧
    (illegalPair v 8 = false → hiWord (withHalf t 32 8 v) = (v.extractLsb' 0 16).setWidth 64 ∧
      loWord (withHalf t 32 8 v) = loWord t)

/-- R25: X takes every 64-bit value from the host without a side effect. -/
def Obligations.XWriteStoresAnyWord : Prop :=
  ∀ (s : State) (v : Word) (rest : List HostEvent),
    (writesNext s 0x40 v rest → step s = .next { taken s rest with x := v }) ∧
    (readsNext s 0x40 rest → step s = .next { taken s rest with reply := some s.x })

/-- R54 and the ignored writes of R22: writes to the result halves and to reserved offsets change no register; a
reserved offset reads 0. -/
def Obligations.IgnoredWritesChangeNothing : Prop :=
  ∀ (s : State) (off : Nat) (v : Word) (rest : List HostEvent), off < 256 → off % 8 = 0 →
    ((0x20 ≤ off ∧ off ≤ 0x38) ∨ 0x58 ≤ off → writesNext s off v rest → step s = .next (taken s rest)) ∧
    (0x58 ≤ off → readsNext s off rest → step s = .next { taken s rest with reply := some 0#64 })

/-- R27: a read of STATUS returns the listed fields, every other bit 0; a write reaches the STICKY bits only; reset leaves
0. -/
def Obligations.StatusWordHasTheListedFields : Prop :=
  (∀ (s : State) (rest : List HostEvent), readsNext s 0x50 rest →
    ∃ v : Word, step s = .next { taken s rest with reply := some v } ∧
      v.extractLsb' 0 3 = s.err ∧ v.extractLsb' 3 2 = s.c.pair ∧ v.getLsbD 5 = s.ov ∧ v.extractLsb' 6 2 = 0#2 ∧
      v.extractLsb' 8 8 = s.sticky ∧ v.extractLsb' 16 48 = 0#48) ∧
  (∀ (s : State) (v : Word) (rest : List HostEvent), writesNext s 0x50 v rest →
    ∃ k : BitVec 8, step s = .next { taken s rest with sticky := k }) ∧
  statusWord State.reset = 0#64

/-- R31: a host write of STATUS clears exactly the STICKY bits it has a 1 for and changes nothing else; an error sets its
own bit; no other access clears a bit, and none sets a bit but that of an error raised, which is never bit 8, 9 or 15. -/
def Obligations.StickyBitsAreSetAndClearedAsStated : Prop :=
  (∀ (s : State) (v : Word) (rest : List HostEvent), writesNext s 0x50 v rest →
    ∃ k : BitVec 8, step s = .next { taken s rest with sticky := k } ∧
      ∀ j, j < 8 → k.getLsbD j = (s.sticky.getLsbD j && !v.getLsbD (8 + j))) ∧
  (∀ (i : Instr) (s t : State), exec i s = .next t → t.err ≠ 0#3 → t.sticky.getLsbD t.err.toNat = true) ∧
  (∀ (s t : State) (e : HostEvent) (rest : List HostEvent), s.inputs = e :: rest → e ≠ .reset →
    (∀ v, e ≠ .write (s.config.tdlBase + 0x50) 8 v) → step s = .next t →
    (t.err ≠ s.err → t.err ≠ 0#3 → t.sticky.getLsbD t.err.toNat = true) ∧
    ∀ j, j < 8 → (s.sticky.getLsbD j = true → t.sticky.getLsbD j = true) ∧
      (t.sticky.getLsbD j = true → s.sticky.getLsbD j = true ∨ j = t.err.toNat ∧ 2 ≤ j ∧ j ≤ 6))

/-! ## Encoding -/

/-- Words of 30_encoding.md section 7 and of the vectors of 95_test_vectors.md, decoded, and the zero word rejected (which
check the rejection names is the model's choice, log 15). -/
def Obligations.ExampleWordsDecode : Prop :=
  decode 0x341#64 = .ok .dunInc ∧ decode 0x105#64 = .ok .zipBitand ∧ decode 0x1944#64 = .ok (.eachwBitor .neg) ∧
  decode 0x600D#64 = .ok (.shl 3) ∧ decode 0x1601C#64 = .ok (.pack 11) ∧ decode 0x52#64 = .ok .movBR ∧
  decode 0x8#64 = .ok .add ∧ decode 0x3C2#64 = .ok .dbinHtImply ∧ decode 0x381#64 = .ok .dunDec ∧
  decode 0x143#64 = .ok .eachPost ∧ decode 0x1B#64 = .ok .wdec ∧ decode 0#64 = .error .unassignedOp

/-- The word of every well-formed command decodes to it. -/
def Obligations.DecodeOfEncode : Prop := ∀ i : Instr, i.wellFormed = true → decode (encode i) = .ok i

/-- A word that decodes is the word of the command it decodes to, and that command is well formed: no two words mean the
same command. -/
def Obligations.EncodeOfDecode : Prop :=
  ∀ (w : Word) (i : Instr), decode w = .ok i → encode i = w ∧ i.wellFormed = true

/-- R70: the words that decode are exactly those that pass every check on their fields. -/
def Obligations.LegalWordsPassEveryFieldCheck : Prop :=
  ∀ w : Word, (∃ i, decode w = .ok i) ↔
    w.extractLsb' 19 45 = 0#45 ∧
    ∃ c, opClass (w.extractLsb' 0 6).toNat = some c ∧ (w.extractLsb' 6 5).toNat ≤ c.format.selMax ∧
      (c.format = .bd → w.extractLsb' 11 2 ≠ 0b10#2) ∧ (c.format ≠ .bd → w.extractLsb' 11 2 = 0#2) ∧
      (c = .pack ∨ c = .unpack → (w.extractLsb' 13 6).toNat ≤ 40) ∧
      (c.format ≠ .k → w.extractLsb' 13 6 = 0#6)

/-! ## Invariants and whole-machine rules -/

/-- Every step keeps the invariant: ERR and STICKY hold only what rules write, and the tables stay admissible. -/
def Obligations.StepKeepsInv : Prop := ∀ s t : State, s.Inv → step s = .next t → t.Inv

/-- The invariant holds after reset. -/
def Obligations.ResetMeetsInv : Prop := State.reset.Inv

/-- R256: an error of a command, of a word that does not decode, or the refusal of a host write of a half, writes ERR and
its STICKY bit and nothing else. -/
def Obligations.ErrorsWriteOnlyErrAndSticky : Prop :=
  (∀ (i : Instr) (s t : State), exec i s = .next t → t.err ≠ 0#3 → t = afterError s t.err.toNat) ∧
  (∀ (s : State) (w : Word) (rest : List HostEvent) (e : DecodeReject), writesNext s 0x48 w rest → decode w = .error e →
    step s = .next (afterError { taken s rest with cmd := w } 6)) ∧
  (∀ (s : State) (v : Word) (rest : List HostEvent) (off : Nat), off = 0x00 ∨ off = 0x08 ∨ off = 0x10 ∨ off = 0x18 →
    writesNext s off v rest → illegalPair v (if off % 16 = 0 then 32 else 8) = true →
    step s = .next (afterError (taken s rest) 4))

/-- R250: every command answers a next state, in success or with the one error that the table lists; a word that does not
decode ends with IllegalCommand; a half write with the pair 10 ends with CodecError. No other host write raises an
error. -/
def Obligations.OutcomesAreThoseOfTheErrorTable : Prop :=
  (∀ (i : Instr) (s : State), s.config.lawful = true →
    ∃ t, exec i s = .next t ∧ t.err.toNat = errorCode i s ∧
      (t.err ≠ 0#3 → t.sticky.getLsbD t.err.toNat = true) ∧ (t.err = 0#3 → t.sticky = s.sticky)) ∧
  (∀ (s : State) (w : Word) (rest : List HostEvent) (e : DecodeReject), writesNext s 0x48 w rest → decode w = .error e →
    ∃ t, step s = .next t ∧ t.err.toNat = 6) ∧
  (∀ (s t : State) (off : Nat) (v : Word) (rest : List HostEvent), off % 8 = 0 → off < 256 → off ≠ 0x48 →
    writesNext s off v rest → step s = .next t →
    t.err = (if (off = 0x00 ∨ off = 0x10) ∧ illegalPair v 32 = true ∨ (off = 0x08 ∨ off = 0x18) ∧ illegalPair v 8 = true
      then 4#3 else s.err)) ∧
  (∀ (s t : State) (off : Nat) (rest : List HostEvent), readsNext s off rest → step s = .next t → t.err = s.err)

/-- R57: a command word written twice in a row leaves the same state as written once. -/
def Obligations.RepeatedCommandLeavesTheSameState : Prop :=
  ∀ (s : State) (w : Word) (rest : List HostEvent), writesNext s 0x48 w (cmdWrite s w :: rest) →
    ∃ t, step s = .next t ∧ step t = .next { t with inputs := rest }

/-- R33: a command is a function of A, B, X, the tables and the command word (and of R and R2 for `mov`): nothing else of
the state reaches its outcome or what it writes. -/
def Obligations.CommandsDependOnlyOnTheirOperands : Prop :=
  ∀ (i : Instr) (s s' t t' : State), s'.a = s.a → s'.b = s.b → s'.x = s.x → s'.config = s.config →
    (isMov i = true → s'.r = s.r ∧ s'.r2 = s.r2) → exec i s = .next t → exec i s' = .next t' →
    t'.a = t.a ∧ t'.b = t.b ∧ t'.x = t.x ∧ t'.err = t.err ∧
    (t'.r = t.r ∨ t.r = s.r ∧ t'.r = s'.r) ∧ (t'.r2 = t.r2 ∨ t.r2 = s.r2 ∧ t'.r2 = s'.r2) ∧
    (t.err = 0#3 → t'.c = t.c ∧ t'.ov = t.ov)

/-- The columns "written by commands" of the table of state: which commands may change A, B, R2 and X; no command changes
CMD, the parameters or the host's side. -/
def Obligations.RegistersChangeOnlyByTheirCommands : Prop :=
  ∀ (i : Instr) (s t : State), exec i s = .next t →
    (t.a ≠ s.a → i = .movAR ∨ i = .movAR2) ∧ (t.b ≠ s.b → i = .movBR ∨ i = .movBR2) ∧
    (t.r2 ≠ s.r2 → i = .mul ∨ i = .div) ∧
    (t.x ≠ s.x → i = .todec ∨ i = .cenc ∨ i = .wenc ∨ ∃ n, i = .pack n) ∧
    t.cmd = s.cmd ∧ t.config = s.config ∧ t.inputs = s.inputs ∧ t.reply = s.reply

/-- R29 and R30: which commands can leave a non-Zero C or a set OV; a failed command leaves both unchanged. -/
def Obligations.CarryAndOverflowComeFromTheirCommands : Prop :=
  ∀ (i : Instr) (s t : State), s.config.lawful = true → exec i s = .next t →
    (t.err = 0#3 → t.c ≠ .zero →
      i = .dunInc ∨ i = .dunDec ∨ i = .dbinAdd ∨ i = .dbinSub ∨ i = .add ∨ i = .sub) ∧
    (t.err = 0#3 → t.ov = true → i = .add ∨ i = .sub ∨ i = .mul ∨ ∃ k, i = .shl k) ∧
    (t.err ≠ 0#3 → t.c = s.c ∧ t.ov = s.ov)

/-- R259: an error does not block later commands: a command runs the same whatever ERR and STICKY hold. -/
def Obligations.EarlierErrorsDoNotAffectACommand : Prop :=
  ∀ (i : Instr) (s t : State) (e : BitVec 3) (k : BitVec 8), exec i s = .next t →
    ∃ t', exec i { s with err := e, sticky := k } = .next t' ∧
      t' = { t with sticky := if t.err = 0#3 then k else k ||| (1#8 <<< t.err.toNat) }

/-! ## Values of trit vectors -/

/-- A 40-trit vector holds every integer from -M to M, each exactly once. -/
def Obligations.VectorsHoldEachIntegerOnce : Prop :=
  (∀ t : TVec, -6078832729528464400 ≤ t.val ∧ t.val ≤ 6078832729528464400) ∧
  (∀ t u : TVec, t.val = u.val → t = u) ∧
  (∀ x : Int, -6078832729528464400 ≤ x → x ≤ 6078832729528464400 → ∃ t : TVec, t.val = x)

/-- wrap_n(x) has n trits and a value congruent to x modulo 3^n, and its value is x when that fits. -/
def Obligations.WrapIsCongruentAndExactInRange : Prop :=
  ∀ (n : Nat) (x : Int), (wrapDigits n x).length = n ∧ (digitsVal (wrapDigits n x) - x) % 3 ^ n = 0 ∧
    (2 * x.natAbs < 3 ^ n → digitsVal (wrapDigits n x) = x)

/-! ## Digit commands -/

/-- R100: `dun.op` puts the table's value and carry for A[0] in R[0] and R[1], Zero above, and the carry in C. -/
def Obligations.DunLeavesValueAndCarry : Prop :=
  ∀ (o : UnOp) (s : State),
    ∃ t, exec (dunInstr o) s = .next t ∧ t = afterR s t.r ((s.config.unary o).at (s.a.get 0)).carry false ∧
      t.r.get 0 = ((s.config.unary o).at (s.a.get 0)).value ∧ t.r.get 1 = ((s.config.unary o).at (s.a.get 0)).carry ∧
      (∀ i, 2 ≤ i → i < 40 → t.r.get i = .zero) ∧
      t.r.val = (t.r.get 0).toInt + 3 * t.c.toInt ∧
      (s.config.lawful = true →
        (t.c ≠ .zero ↔ o = .inc ∧ s.a.get 0 = .pos ∨ o = .dec ∧ s.a.get 0 = .neg))

/-- R101: `dbin.op` does the same for the pair (A[0], B[0]); an undefined entry raises DomainError, which under admissible
tables is exactly `dbin.div` with B[0] Zero; the carry is non-Zero for the listed pairs of `add` and `sub` only. -/
def Obligations.DbinLeavesValueAndCarry : Prop :=
  ∀ (o : BinOp) (s : State),
    (∀ d, (s.config.binary o).at (s.a.get 0) (s.b.get 0) = some d →
      (∃ t, exec (dbinInstr o) s = .next t ∧ t = afterR s t.r d.carry false ∧
        t.r.get 0 = d.value ∧ t.r.get 1 = d.carry ∧ (∀ i, 2 ≤ i → i < 40 → t.r.get i = .zero)) ∧
      (s.config.lawful = true → (d.carry ≠ .zero ↔
        o = .add ∧ (s.a.get 0 = .pos ∧ s.b.get 0 = .pos ∨ s.a.get 0 = .neg ∧ s.b.get 0 = .neg) ∨
        o = .sub ∧ (s.a.get 0 = .pos ∧ s.b.get 0 = .neg ∨ s.a.get 0 = .neg ∧ s.b.get 0 = .pos)))) ∧
    ((s.config.binary o).at (s.a.get 0) (s.b.get 0) = none → exec (dbinInstr o) s = .next (afterError s 3)) ∧
    (s.config.lawful = true →
      ((s.config.binary o).at (s.a.get 0) (s.b.get 0) = none ↔ o = .div ∧ s.b.get 0 = .zero))

/-- Under admissible tables the arithmetic digit commands leave the integer result in R: A[0]+1, A[0]-1, -A[0], and the
sum, difference, product and exact quotient of A[0] and B[0]. -/
def Obligations.DigitArithmeticLeavesTheIntegerResult : Prop :=
  ∀ s : State, s.config.lawful = true →
    (∃ t, exec .dunInc s = .next t ∧ t.r.val = (s.a.get 0).toInt + 1) ∧
    (∃ t, exec .dunDec s = .next t ∧ t.r.val = (s.a.get 0).toInt - 1) ∧
    (∃ t, exec .dunNegation s = .next t ∧ t.r.val = -(s.a.get 0).toInt) ∧
    (∃ t, exec .dbinAdd s = .next t ∧ t.r.val = (s.a.get 0).toInt + (s.b.get 0).toInt) ∧
    (∃ t, exec .dbinSub s = .next t ∧ t.r.val = (s.a.get 0).toInt - (s.b.get 0).toInt) ∧
    (∃ t, exec .dbinMul s = .next t ∧ t.r.val = (s.a.get 0).toInt * (s.b.get 0).toInt) ∧
    (s.b.get 0 ≠ .zero → ∃ t, exec .dbinDiv s = .next t ∧ t.r.val * (s.b.get 0).toInt = (s.a.get 0).toInt)

/-- With the default tables (log 4: the logic operations' entries are general knowledge, not the source's), every digit
command's value is the one its formula gives. -/
def Obligations.DefaultTablesFollowTheirFormulas : Prop :=
  ∀ s : State, s.config = defaultConfig →
    (∀ o : UnOp, ∃ t, exec (dunInstr o) s = .next t ∧
      (t.r.get 0).toInt = unaryFormula o (s.a.get 0).toInt) ∧
    (∀ o : BinOp, (o = .div → s.b.get 0 ≠ .zero) → ∃ t, exec (dbinInstr o) s = .next t ∧
      (t.r.get 0).toInt = binaryFormula o (s.a.get 0).toInt (s.b.get 0).toInt)

/-! ## Lanewise commands -/

/-- R150: `each.op` applies the table to all 40 lanes and keeps the value digits; `each.negation` negates the value. -/
def Obligations.EachActsOnEveryLane : Prop :=
  ∀ (o : UnOp) (s : State),
    ∃ t, exec (eachInstr o) s = .next t ∧ t = afterR s t.r .zero false ∧
      (∀ i, i < 40 → t.r.get i = ((s.config.unary o).at (s.a.get i)).value) ∧
      (s.config.lawful = true → o = .negation → t.r.val = -s.a.val)

/-- R151: `eachw.op d` applies the table to every lane of A with `d` on the right; it fails whole when a lane is
undefined, which under admissible tables is exactly `div` with d Zero; `mul` by a digit, and `div` by a non-Zero one,
multiply the value of A by it; `bitor` with Pos gives 40 Pos lanes wherever the table's Pos column is Pos. -/
def Obligations.EachwActsOnEveryLane : Prop :=
  (∀ (o : BinOp) (d : Trit) (s : State),
    ((∀ i, i < 40 → (s.config.binary o).at (s.a.get i) d ≠ none) →
      ∃ t, exec (eachwInstr d o) s = .next t ∧ t = afterR s t.r .zero false ∧
        ∀ i, i < 40 → ∃ e, (s.config.binary o).at (s.a.get i) d = some e ∧ t.r.get i = e.value) ∧
    ((∃ i, i < 40 ∧ (s.config.binary o).at (s.a.get i) d = none) → exec (eachwInstr d o) s = .next (afterError s 3)) ∧
    (s.config.lawful = true →
      ((∃ i, i < 40 ∧ (s.config.binary o).at (s.a.get i) d = none) ↔ o = .div ∧ d = .zero))) ∧
  (∀ (d : Trit) (s : State), s.config.lawful = true →
    (∃ t, exec (.eachwMul d) s = .next t ∧ t.r.val = d.toInt * s.a.val) ∧
    (d ≠ .zero → ∃ t, exec (.eachwDiv d) s = .next t ∧ t.r.val = d.toInt * s.a.val)) ∧
  (∀ s : State, (∀ x, s.config.lutBitor.at x .pos = some ⟨.pos, .zero⟩) →
    ∃ t, exec (.eachwBitor .pos) s = .next t ∧ ∀ i, i < 40 → t.r.get i = .pos)

/-- R152: `zip.op` applies the table lane by lane, A left and B right; it fails whole when a lane is undefined, which under
admissible tables is exactly `div` with some B lane Zero; `sub` of equal registers gives Zero40; `k3_equiv` and `mul` do
the same wherever their tables are the same, as the default ones are. -/
def Obligations.ZipActsOnEveryLane : Prop :=
  (∀ (o : BinOp) (s : State),
    ((∀ i, i < 40 → (s.config.binary o).at (s.a.get i) (s.b.get i) ≠ none) →
      ∃ t, exec (zipInstr o) s = .next t ∧ t = afterR s t.r .zero false ∧
        ∀ i, i < 40 → ∃ e, (s.config.binary o).at (s.a.get i) (s.b.get i) = some e ∧ t.r.get i = e.value) ∧
    ((∃ i, i < 40 ∧ (s.config.binary o).at (s.a.get i) (s.b.get i) = none) →
      exec (zipInstr o) s = .next (afterError s 3)) ∧
    (s.config.lawful = true →
      ((∃ i, i < 40 ∧ (s.config.binary o).at (s.a.get i) (s.b.get i) = none) ↔
        o = .div ∧ ∃ i, i < 40 ∧ s.b.get i = .zero))) ∧
  (∀ s : State, s.config.lawful = true → s.a = s.b → ∃ t, exec .zipSub s = .next t ∧ t.r = zero40) ∧
  (∀ s : State, s.config.lutK3Equiv = s.config.lutMul → exec .zipK3Equiv s = exec .zipMul s) ∧
  defaultConfig.lutK3Equiv = defaultConfig.lutMul

/-- R155: a lanewise `div` with any Zero right operand fails as a whole with DomainError: no lane of R is written and C and
OV are unchanged. -/
def Obligations.LanewiseDivFailsWhole : Prop :=
  ∀ s : State, s.config.lawful = true →
    exec (.eachwDiv .zero) s = .next (afterError s 3) ∧
    ((∃ i, i < 40 ∧ s.b.get i = .zero) → exec .zipDiv s = .next (afterError s 3))

/-! ## Integer arithmetic -/

/-- R170: `add` sweeps from the least significant trit; sum and carry out satisfy val(R) + 3^40·C = val(A) + val(B), and OV
says whether C is non-Zero. -/
def Obligations.AddKeepsTheSum : Prop :=
  ∀ s : State,
    ∃ t, exec .add s = .next t ∧ t = afterR s t.r t.c (decide (t.c ≠ .zero)) ∧
      (∃ cs : Nat → Trit, cs 0 = .zero ∧ t.c = cs 40 ∧
        ∀ i, i < 40 → (t.r.get i).toInt + 3 * (cs (i + 1)).toInt
          = (s.a.get i).toInt + (s.b.get i).toInt + (cs i).toInt) ∧
      t.r.val + 3 ^ 40 * t.c.toInt = s.a.val + s.b.val

/-- R171: `sub` likewise for the difference. -/
def Obligations.SubKeepsTheDifference : Prop :=
  ∀ s : State,
    ∃ t, exec .sub s = .next t ∧ t = afterR s t.r t.c (decide (t.c ≠ .zero)) ∧
      (∃ cs : Nat → Trit, cs 0 = .zero ∧ t.c = cs 40 ∧
        ∀ i, i < 40 → (t.r.get i).toInt + 3 * (cs (i + 1)).toInt
          = (s.a.get i).toInt - (s.b.get i).toInt + (cs i).toInt) ∧
      t.r.val + 3 ^ 40 * t.c.toInt = s.a.val - s.b.val ∧ t.r = wrap40 (s.a.val - s.b.val)

/-- R172: `mul` keeps the exact product in R (low) and R2 (high), and OV says whether it left the 40-trit range; under
admissible tables the product is the schoolbook sum of the digit products of LUT_mul. That the product is exact under other
tables too is the model's reading, log 11. -/
def Obligations.MulKeepsTheExactProduct : Prop :=
  ∀ s : State,
    (∃ t, exec .mul s = .next t ∧ t = afterR2 s t.r t.r2 (decide (t.r2 ≠ zero40)) ∧
      t.r.digits ++ t.r2.digits = wrapDigits 80 (s.a.val * s.b.val) ∧
      t.r.val + 3 ^ 40 * t.r2.val = s.a.val * s.b.val ∧ t.r = wrap40 (s.a.val * s.b.val) ∧
      (t.ov = true ↔ s.a.val * s.b.val < -6078832729528464400 ∨ 6078832729528464400 < s.a.val * s.b.val)) ∧
    (s.config.lawful = true →
      s.a.val * s.b.val = ∑ i ∈ Finset.range 40, ∑ j ∈ Finset.range 40,
        (laneValue s.config.lutMul (s.a.get i) (s.b.get j)).toInt * 3 ^ (i + j))

/-- R173: `div` by a non-zero value leaves the quotient rounded toward zero in R and the remainder, with the dividend's
sign, in R2; by zero it raises ArithmeticError. -/
def Obligations.DivTruncatesTowardZero : Prop :=
  ∀ s : State,
    (s.b.val ≠ 0 → ∃ t, exec .div s = .next t ∧ t = afterR2 s t.r t.r2 false ∧
      t.r.val = Int.tdiv s.a.val s.b.val ∧ t.r2.val = s.a.val - t.r.val * s.b.val ∧
      t.r2.val.natAbs < s.b.val.natAbs ∧ (t.r2.val = 0 ∨ t.r2.val.sign = s.a.val.sign)) ∧
    (s.b.val = 0 → exec .div s = .next (afterError s 2))

/-- R174: `cmp` leaves in lane 0 the outcome of the first differing position from the top, and Zero in every other lane;
equal registers give Zero. -/
def Obligations.CmpFindsTheFirstDifference : Prop :=
  ∀ s : State,
    ∃ t, exec .cmp s = .next t ∧ t = afterR s t.r .zero false ∧ (∀ i, 1 ≤ i → i < 40 → t.r.get i = .zero) ∧
      (∀ i, i < 40 → s.a.get i ≠ s.b.get i → (∀ j, i < j → j < 40 → s.a.get j = s.b.get j) →
        t.r.get 0 = if (s.a.get i).toInt > (s.b.get i).toInt then .pos else .neg) ∧
      ((∀ i, i < 40 → s.a.get i = s.b.get i) → t.r.get 0 = .zero)

/-- R175: `shl k` multiplies by 3^k into 40 trits, and OV says that a non-Zero digit was dropped, that is, that the
product left the range. -/
def Obligations.ShlMultipliesByPowersOfThree : Prop :=
  ∀ (k : Nat) (s : State),
    ∃ t, exec (.shl k) s = .next t ∧ t = afterR s t.r .zero t.ov ∧
      (∀ i, i < 40 → t.r.get i = if k ≤ i then s.a.get (i - k) else .zero) ∧
      (t.ov = true ↔ ∃ j, j < 40 ∧ 40 ≤ j + k ∧ s.a.get j ≠ .zero) ∧
      t.r = wrap40 (s.a.val * 3 ^ k) ∧
      (t.ov = true ↔ s.a.val * 3 ^ k < -6078832729528464400 ∨ 6078832729528464400 < s.a.val * 3 ^ k)

/-- R176: `shr k` drops the low digits. -/
def Obligations.ShrDropsTheLowDigits : Prop :=
  ∀ (k : Nat) (s : State),
    ∃ t, exec (.shr k) s = .next t ∧ t = afterR s t.r .zero false ∧
      (∀ i, i < 40 → t.r.get i = if i + k ≤ 39 then s.a.get (i + k) else .zero)

/-- The value forms that the spec marks as its own inferences ([derived ...] in R152, R170, R174, R176, R220 and R222):
`zip.div` runs only on a B beyond (3^39+1)/2, `add` leaves the wrapped sum and its carry, `cmp` the sign of the difference,
`shr k` the nearest integer to val(A)/3^k, `cenc` val(A[4:0]) + 121 and `wenc` val(A) + M. -/
def Obligations.DerivedValueForms : Prop :=
  ∀ s : State,
    (s.config.lawful = true → ∀ t, exec .zipDiv s = .next t → t.err = 0#3 → 3 ^ 39 + 1 ≤ 2 * s.b.val.natAbs) ∧
    (∃ t, exec .add s = .next t ∧ t.r = wrap40 (s.a.val + s.b.val) ∧
      3 ^ 40 * t.c.toInt = s.a.val + s.b.val - t.r.val) ∧
    (∃ t, exec .cmp s = .next t ∧ (t.r.get 0).toInt = (s.a.val - s.b.val).sign) ∧
    (∀ k, ∃ t, exec (.shr k) s = .next t ∧ 2 * (s.a.val - 3 ^ k * t.r.val).natAbs < 3 ^ k) ∧
    (∃ t, exec .cenc s = .next t ∧
      (t.x.toNat : Int) = (∑ i ∈ Finset.range 5, (s.a.get i).toInt * 3 ^ i) + 121) ∧
    (∃ t, exec .wenc s = .next t ∧ (t.x.toNat : Int) = s.a.val + 6078832729528464400)

/-! ## Conversion and moves -/

/-- R200: `fromdec` converts an X of magnitude at most M exactly and raises RangeError for every other X. -/
def Obligations.FromdecConvertsInRange : Prop :=
  ∀ s : State,
    (s.x.toInt.natAbs ≤ 6078832729528464400 →
      ∃ t, exec .fromdec s = .next t ∧ t = afterR s t.r .zero false ∧ t.r.val = s.x.toInt) ∧
    (6078832729528464400 < s.x.toInt.natAbs → exec .fromdec s = .next (afterError s 5))

/-- R201: `todec` leaves val(A) in X as a two's complement integer, for every A; `fromdec`, `mov a,r`, `todec` gives back
every X of magnitude at most M. -/
def Obligations.TodecLeavesTheValue : Prop :=
  (∀ s : State, ∃ t, exec .todec s = .next t ∧ t = afterX s t.x ∧ t.x.toInt = s.a.val) ∧
  (∀ s : State, s.x.toInt.natAbs ≤ 6078832729528464400 →
    ∃ t u v, exec .fromdec s = .next t ∧ exec .movAR t = .next u ∧ exec .todec u = .next v ∧ v.x = s.x)

/-- R205: the four register moves copy all 40 trits and leave the source register alone. -/
def Obligations.MovCopiesAResultRegister : Prop :=
  ∀ s : State,
    exec .movAR s = .next { s with a := s.r, c := .zero, ov := false, err := 0#3 } ∧
    exec .movBR s = .next { s with b := s.r, c := .zero, ov := false, err := 0#3 } ∧
    exec .movAR2 s = .next { s with a := s.r2, c := .zero, ov := false, err := 0#3 } ∧
    exec .movBR2 s = .next { s with b := s.r2, c := .zero, ov := false, err := 0#3 }

/-! ## Codec -/

/-- R220: `cenc` leaves the Chunk code of A[4:0] in X: the sum of (A[i]+1)·3^i, at most 242. -/
def Obligations.CencLeavesTheChunkCode : Prop :=
  ∀ s : State, ∃ t, exec .cenc s = .next t ∧ t = afterX s t.x ∧ t.x.toNat ≤ 242 ∧
    (t.x.toNat : Int) = ∑ i ∈ Finset.range 5, ((s.a.get i).toInt + 1) * 3 ^ i

/-- R221: `cdec` decodes an X of at most 242 into five trits, Zero above, and raises CodecError for every other X. -/
def Obligations.CdecReadsTheChunkCode : Prop :=
  ∀ s : State,
    (s.x.toNat ≤ 242 → ∃ t, exec .cdec s = .next t ∧ t = afterR s t.r .zero false ∧
      (∀ i, i < 5 → (t.r.get i).toInt = ((s.x.toNat / 3 ^ i % 3 : Nat) : Int) - 1) ∧
      (∀ i, 5 ≤ i → i < 40 → t.r.get i = .zero)) ∧
    (242 < s.x.toNat → exec .cdec s = .next (afterError s 4))

/-- R222: `wenc` leaves the Word code of A in X: the sum of (A[i]+1)·3^i, below 3^40. -/
def Obligations.WencLeavesTheWordCode : Prop :=
  ∀ s : State, ∃ t, exec .wenc s = .next t ∧ t = afterX s t.x ∧ t.x.toNat < 3 ^ 40 ∧
    (t.x.toNat : Int) = ∑ i ∈ Finset.range 40, ((s.a.get i).toInt + 1) * 3 ^ i

/-- R223: `wdec` decodes an X below 3^40 into 40 trits and raises CodecError for every other X. -/
def Obligations.WdecReadsTheWordCode : Prop :=
  ∀ s : State,
    (s.x.toNat < 3 ^ 40 → ∃ t, exec .wdec s = .next t ∧ t = afterR s t.r .zero false ∧
      ∀ i, i < 40 → (t.r.get i).toInt = ((s.x.toNat / 3 ^ i % 3 : Nat) : Int) - 1) ∧
    (3 ^ 40 ≤ s.x.toNat → exec .wdec s = .next (afterError s 4))

/-- R224: `pack n` leaves the chunks of A[n-1:0] in the bytes of X, with Zero in the padding slots and 0 in the bytes
beyond. -/
def Obligations.PackStoresTheChunks : Prop :=
  ∀ (n : Nat) (s : State), n ≤ 40 →
    ∃ t, exec (.pack n) s = .next t ∧ t = afterX s t.x ∧
      ∀ c, c < 8 → ((t.x.extractLsb' (8 * c) 8).toNat : Int) =
        if 5 * c < n then
          ∑ j ∈ Finset.range 5, ((if 5 * c + j < n then (s.a.get (5 * c + j)).toInt else 0) + 1) * 3 ^ j
        else 0

/-- R225: `unpack n` decodes the chunks in the used bytes of X when each is at most 242 with Zero padding slots, and raises
CodecError otherwise. -/
def Obligations.UnpackReadsTheChunks : Prop :=
  ∀ (n : Nat) (s : State), n ≤ 40 →
    ((∀ c, 5 * c < n → (s.x.extractLsb' (8 * c) 8).toNat ≤ 242 ∧
        ∀ j, j < 5 → n ≤ 5 * c + j → (s.x.extractLsb' (8 * c) 8).toNat / 3 ^ j % 3 = 1) →
      ∃ t, exec (.unpack n) s = .next t ∧ t = afterR s t.r .zero false ∧
        (∀ p, p < n → (t.r.get p).toInt =
          (((s.x.extractLsb' (8 * (p / 5)) 8).toNat / 3 ^ (p % 5) % 3 : Nat) : Int) - 1) ∧
        (∀ p, n ≤ p → p < 40 → t.r.get p = .zero)) ∧
    ((∃ c, 5 * c < n ∧ (242 < (s.x.extractLsb' (8 * c) 8).toNat ∨
        ∃ j, j < 5 ∧ n ≤ 5 * c + j ∧ (s.x.extractLsb' (8 * c) 8).toNat / 3 ^ j % 3 ≠ 1)) →
      exec (.unpack n) s = .next (afterError s 4))

/-- The Word codec's round trips, both ways (44_codec.md R226 item 2). -/
def Obligations.WordCodecRoundTrips : Prop :=
  (∀ s : State, ∃ t u, exec .wenc s = .next t ∧ exec .wdec t = .next u ∧ u.r = s.a) ∧
  (∀ s : State, s.x.toNat < 3 ^ 40 →
    ∃ t u v, exec .wdec s = .next t ∧ exec .movAR t = .next u ∧ exec .wenc u = .next v ∧ v.x = s.x)

/-- The Chunk codec's round trips, both ways (44_codec.md R226 item 1). -/
def Obligations.ChunkCodecRoundTrips : Prop :=
  (∀ s : State, ∃ t u, exec .cenc s = .next t ∧ exec .cdec t = .next u ∧
    (∀ i, i < 5 → u.r.get i = s.a.get i) ∧ (∀ i, 5 ≤ i → i < 40 → u.r.get i = .zero)) ∧
  (∀ s : State, s.x.toNat ≤ 242 →
    ∃ t u v, exec .cdec s = .next t ∧ exec .movAR t = .next u ∧ exec .cenc u = .next v ∧ v.x = s.x)

/-- Chunked storage (44_codec.md R226 item 3): what `pack n` leaves in X, `unpack n` accepts and decodes to the low `n`
trits of A; so it gives back every A whose higher trits are Zero. -/
def Obligations.PackThenUnpackReturnsTheTrits : Prop :=
  ∀ (n : Nat) (s : State), n ≤ 40 →
    ∃ t u, exec (.pack n) s = .next t ∧ exec (.unpack n) t = .next u ∧ u.err = 0#3 ∧
      (∀ i, i < n → u.r.get i = s.a.get i) ∧
      ((∀ i, n ≤ i → i < 40 → s.a.get i = .zero) → u.r = s.a)

/-- 44_codec.md R226 item 4: the Word code of a vector is not its chunked layout; Zero40 shows it. -/
def Obligations.WordCodeIsNotTheChunkLayout : Prop :=
  ∀ s : State, s.a = zero40 →
    exec .wenc s = .next (afterX s 0x545C5A29148FF410#64) ∧
    exec (.pack 40) s = .next (afterX s 0x7979797979797979#64)
end

