-- ==== Sys2Proof/Laws/Ternary.lean ====
section
/-! SUPPORT. The lemmas of trits and trit vectors: reading and building, values, wrap, and the positional codes. -/

namespace Sys2Proof

/-! ## Reading and building vectors -/

@[simp] theorem TVec.digits_length (t : TVec) : t.digits.length = 40 := t.size_eq

theorem TVec.get_eq_getElem (t : TVec) {i : Nat} (h : i < 40) : t.get i = t.digits[i]'(by simpa using h) := by
  simp [TVec.get, List.getD_eq_getElem?_getD, h]

@[simp] theorem TVec.get_ofFn (f : Nat → Trit) {i : Nat} (h : i < 40) : (TVec.ofFn f).get i = f i := by
  simp [TVec.get, TVec.ofFn, List.getD_eq_getElem?_getD, h]

theorem TVec.get_of_le (t : TVec) {i : Nat} (h : 40 ≤ i) : t.get i = .zero := by
  simp [TVec.get, List.getD_eq_getElem?_getD, h]

theorem TVec.get_zero40 (i : Nat) : zero40.get i = .zero := by
  by_cases h : i < 40 <;> simp [TVec.get, zero40, List.getD_eq_getElem?_getD, h]

/-- Two vectors with the same 40 trits are equal. -/
theorem TVec.eq_of_get {t u : TVec} (h : ∀ i, i < 40 → t.get i = u.get i) : t = u := by
  obtain ⟨l, hl⟩ := t
  obtain ⟨m, hm⟩ := u
  have : l = m := by
    apply List.ext_getElem (by rw [hl, hm])
    intro i h₁ h₂
    have h40 : i < 40 := Nat.lt_of_lt_of_eq h₁ hl
    have := h i h40
    rwa [TVec.get_eq_getElem _ h40, TVec.get_eq_getElem _ h40] at this
  subst this
  rfl

theorem TVec.eq_of_digits {t u : TVec} (h : t.digits = u.digits) : t = u := by
  cases t; cases u; simpa using h

/-! ## Trits and pairs -/

theorem Trit.toInt_bounds (t : Trit) : -1 ≤ t.toInt ∧ t.toInt ≤ 1 := by cases t <;> decide

theorem Trit.toInt_injective {t u : Trit} (h : t.toInt = u.toInt) : t = u := by
  cases t <;> cases u <;> simp_all [Trit.toInt]

@[simp] theorem Trit.ofPair_pair (t : Trit) : Trit.ofPair t.pair = some t := by cases t <;> rfl

/-- A pair other than 10 is the pair of its trit. -/
theorem Trit.pair_ofPair {p : BitVec 2} (h : p ≠ 0b10#2) : ((Trit.ofPair p).getD .zero).pair = p := by
  revert h
  revert p
  decide

theorem Trit.pair_ne_illegal (t : Trit) : t.pair ≠ 0b10#2 := by cases t <;> decide

/-- The trit of a remainder modulo 3 is congruent to it, between -1 and 1. -/
theorem Trit.ofRemainder_emod (x : Int) : (x - (Trit.ofRemainder (x % 3)).toInt) % 3 = 0 := by
  unfold Trit.ofRemainder
  split
  · simp only [Trit.toInt]; omega
  · split <;> simp only [Trit.toInt] <;> omega

/-- The two digits of a small integer have its value (40_digit_lut.md R103). -/
theorem twoDigits_sum {x : Int} (h₁ : -4 ≤ x) (h₂ : x ≤ 4) :
    (twoDigits x).value.toInt + 3 * (twoDigits x).carry.toInt = x := by
  have h : x = -4 ∨ x = -3 ∨ x = -2 ∨ x = -1 ∨ x = 0 ∨ x = 1 ∨ x = 2 ∨ x = 3 ∨ x = 4 := by omega
  rcases h with rfl | rfl | rfl | rfl | rfl | rfl | rfl | rfl | rfl <;> decide

/-! ## Values -/

theorem digitsVal_cons (t : Trit) (l : List Trit) : digitsVal (t :: l) = t.toInt + 3 * digitsVal l := rfl

theorem digitsVal_append (l m : List Trit) : digitsVal (l ++ m) = digitsVal l + 3 ^ l.length * digitsVal m := by
  induction l with
  | nil => simp [digitsVal]
  | cons t l ih =>
    simp only [List.cons_append, digitsVal_cons, ih, List.length_cons, pow_succ]
    ring

/-- `n` trits have a value of magnitude at most `(3^n - 1)/2` (00_scope.md R6). -/
theorem digitsVal_bounds (l : List Trit) : -(3 ^ l.length - 1) ≤ 2 * digitsVal l ∧ 2 * digitsVal l ≤ 3 ^ l.length - 1 := by
  induction l with
  | nil => simp [digitsVal]
  | cons t l ih =>
    have := t.toInt_bounds
    simp only [digitsVal_cons, List.length_cons, pow_succ]
    omega

/-- Lists of trits of one length with congruent values are equal. -/
theorem digits_eq_of_congruent {l m : List Trit} (hl : l.length = m.length)
    (h : (digitsVal l - digitsVal m) % 3 ^ l.length = 0) : l = m := by
  induction l generalizing m with
  | nil => exact (List.length_eq_zero_iff.mp hl.symm).symm
  | cons t l ih =>
    cases m with
    | nil => simp at hl
    | cons u m =>
      obtain ⟨k, hk⟩ := Int.dvd_of_emod_eq_zero h
      simp only [digitsVal_cons, List.length_cons, pow_succ] at hk
      have ht := t.toInt_bounds
      have hu := u.toInt_bounds
      have hk' : t.toInt + 3 * digitsVal l - (u.toInt + 3 * digitsVal m) = 3 * (3 ^ l.length * k) := by
        rw [hk]; ring
      have htu : t = u := Trit.toInt_injective (by omega)
      subst htu
      rw [ih (by simpa using hl)]
      exact Int.emod_eq_zero_of_dvd ⟨k, by omega⟩

/-- The sum form of a value: `Σ t[i]·3^i` (00_scope.md R5). -/
theorem digitsVal_eq_sum (l : List Trit) :
    digitsVal l = ∑ i ∈ Finset.range l.length, (l.getD i .zero).toInt * 3 ^ i := by
  induction l with
  | nil => simp [digitsVal]
  | cons t l ih =>
    rw [List.length_cons, Finset.sum_range_succ', digitsVal_cons, ih, Finset.mul_sum]
    simp only [List.getD_cons_succ, List.getD_cons_zero, pow_zero, mul_one, pow_succ]
    rw [add_comm]
    congr 1
    exact Finset.sum_congr rfl fun i _ => by ring

theorem TVec.val_eq_sum (t : TVec) : t.val = ∑ i ∈ Finset.range 40, (t.get i).toInt * 3 ^ i := by
  rw [TVec.val, digitsVal_eq_sum, TVec.digits_length]
  rfl

theorem TVec.val_bounds (t : TVec) : -maxVal ≤ t.val ∧ t.val ≤ maxVal := by
  have := digitsVal_bounds t.digits
  rw [TVec.digits_length] at this
  unfold TVec.val maxVal
  norm_num at this
  omega

/-! ## Wrap -/

/-- `wrap_n(x)` is congruent to `x` modulo `3^n` (00_scope.md R7). -/
theorem digitsVal_wrapDigits (n : Nat) (x : Int) : (digitsVal (wrapDigits n x) - x) % 3 ^ n = 0 := by
  induction n generalizing x with
  | zero => simp
  | succ n ih =>
    obtain ⟨k, hk⟩ := Int.dvd_of_emod_eq_zero (ih ((x - (Trit.ofRemainder (x % 3)).toInt) / 3))
    have hr := Trit.ofRemainder_emod x
    rw [wrapDigits, digitsVal_cons]
    apply Int.emod_eq_zero_of_dvd
    refine ⟨k, ?_⟩
    rw [pow_succ]
    have : (x - (Trit.ofRemainder (x % 3)).toInt) = 3 * ((x - (Trit.ofRemainder (x % 3)).toInt) / 3) := by omega
    have hk3 : 3 ^ n * 3 * k = 3 * (3 ^ n * k) := by ring
    rw [hk3, ← hk]
    omega

/-- A list of trits congruent to `x` is `wrap_n(x)`. -/
theorem eq_wrapDigits {l : List Trit} {x : Int} (h : (digitsVal l - x) % 3 ^ l.length = 0) :
    l = wrapDigits l.length x := by
  apply digits_eq_of_congruent (wrapDigits_length _ _).symm
  have h₂ := digitsVal_wrapDigits l.length x
  obtain ⟨k, hk⟩ := Int.dvd_of_emod_eq_zero h
  obtain ⟨m, hm⟩ := Int.dvd_of_emod_eq_zero h₂
  refine Int.emod_eq_zero_of_dvd ⟨k - m, ?_⟩
  rw [mul_sub, ← hk, ← hm]
  ring

/-- A vector congruent to `x` modulo `3^40` is `wrap_40(x)`. -/
theorem eq_wrap40 {t : TVec} {x : Int} (h : (t.val - x) % 3 ^ 40 = 0) : t = wrap40 x := by
  apply TVec.eq_of_digits
  have := eq_wrapDigits (l := t.digits) (x := x) (by rw [TVec.digits_length]; exact h)
  rw [this, TVec.digits_length]
  rfl

theorem wrap40_val_of_small {x : Int} (h₁ : -maxVal ≤ x) (h₂ : x ≤ maxVal) : (wrap40 x).val = x := by
  have hb := (wrap40 x).val_bounds
  have hc : ((wrap40 x).val - x) % 3 ^ 40 = 0 := digitsVal_wrapDigits 40 x
  unfold maxVal at *
  norm_num at hc
  omega

/-! ## Codes -/

theorem Trit.codeDigit_eq (t : Trit) : (t.codeDigit : Int) = t.toInt + 1 := by cases t <;> rfl

theorem Trit.codeDigit_lt (t : Trit) : t.codeDigit < 3 := by cases t <;> decide

theorem codeOf_cons (t : Trit) (l : List Trit) : codeOf (t :: l) = t.codeDigit + 3 * codeOf l := rfl

/-- The code of `n` trits is below `3^n` (44_codec.md R220, R222). -/
theorem codeOf_lt (l : List Trit) : codeOf l < 3 ^ l.length := by
  induction l with
  | nil => simp [codeOf]
  | cons t l ih =>
    have := t.codeDigit_lt
    rw [codeOf_cons, List.length_cons, pow_succ]
    omega

/-- The code is the value plus the half range (44_codec.md R220, R222). -/
theorem codeOf_eq (l : List Trit) : 2 * (codeOf l : Int) = 2 * digitsVal l + (3 ^ l.length - 1) := by
  induction l with
  | nil => simp [codeOf, digitsVal]
  | cons t l ih =>
    have ht := t.codeDigit_eq
    rw [codeOf_cons, digitsVal_cons, List.length_cons, pow_succ]
    push_cast
    omega

theorem digitOf_zero (c : Nat) (t : Trit) (n : Nat) (h : c = t.codeDigit + 3 * n) : digitOf c 0 = t := by
  subst h
  cases t <;> simp [digitOf, Trit.codeDigit, Nat.add_mul_mod_self_left]

theorem digitOf_succ (t : Trit) (n i : Nat) : digitOf (t.codeDigit + 3 * n) (i + 1) = digitOf n i := by
  have : (t.codeDigit + 3 * n) / 3 ^ (i + 1) = n / 3 ^ i := by
    rw [pow_succ', ← Nat.div_div_eq_div_mul]
    have := t.codeDigit_lt
    congr 1
    omega
  simp [digitOf, this]

/-- Decoding a code gives back its trits (44_codec.md R226). -/
theorem digitOf_codeOf (l : List Trit) {i : Nat} (h : i < l.length) : digitOf (codeOf l) i = l[i] := by
  induction l generalizing i with
  | nil => simp at h
  | cons t l ih =>
    cases i with
    | zero => exact digitOf_zero _ t _ rfl
    | succ i => rw [codeOf_cons, digitOf_succ]; exact ih (by simpa using h)

theorem digitOf_codeDigit (c i : Nat) : (digitOf c i).codeDigit = c / 3 ^ i % 3 := by
  have : c / 3 ^ i % 3 < 3 := Nat.mod_lt _ (by decide)
  unfold digitOf
  generalize c / 3 ^ i % 3 = m at *
  rcases m with _ | _ | _ | m <;> first | rfl | omega

/-- Encoding the digits of a code gives back the code (44_codec.md R226). -/
theorem codeOf_digitOf (n c : Nat) (h : c < 3 ^ n) : codeOf ((List.range n).map fun i => digitOf c i) = c := by
  induction n generalizing c with
  | zero => simp at h; simp [codeOf, h]
  | succ n ih =>
    rw [List.range_succ_eq_map, List.map_cons, List.map_map, codeOf_cons]
    have hs : ((fun i => digitOf c i) ∘ Nat.succ) = fun i => digitOf (c / 3) i := by
      funext i
      simp only [Function.comp, digitOf, Nat.succ_eq_add_one, pow_succ', Nat.div_div_eq_div_mul]
    rw [hs, ih _ (by rw [pow_succ] at h; omega), digitOf_codeDigit]
    simp only [pow_zero, Nat.div_one]
    omega

/-! ## Pairs of a half -/

theorem pairsNat_lt (l : List Trit) : pairsNat l < 4 ^ l.length := by
  induction l with
  | nil => simp [pairsNat]
  | cons t l ih =>
    have : t.pair.toNat < 4 := t.pair.isLt
    rw [pairsNat, List.length_cons, pow_succ]
    omega

/-- Pair `i` of the number is the pair of trit `i` (10_state.md R24). -/
theorem pairsNat_pair (l : List Trit) {i : Nat} (h : i < l.length) : pairsNat l / 4 ^ i % 4 = (l[i]).pair.toNat := by
  induction l generalizing i with
  | nil => simp at h
  | cons t l ih =>
    have ht : t.pair.toNat < 4 := t.pair.isLt
    cases i with
    | zero =>
      simp only [pairsNat, pow_zero, Nat.div_one, List.getElem_cons_zero]
      omega
    | succ i =>
      rw [pow_succ', ← Nat.div_div_eq_div_mul, pairsNat]
      have : (t.pair.toNat + 4 * pairsNat l) / 4 = pairsNat l := by omega
      rw [this]
      exact ih (by simpa using h)

end Sys2Proof
end

