-- ==== Sys2Proof/Laws/Codec.lean ====
section
/-! SUPPORT. The laws of the codec's shared operations, on which the round trips of 44_codec.md R226 rest: what a decoded
vector holds, that coding and decoding undo each other, and that `unpack n` refuses nothing that `pack n` stored. -/

namespace Sys2Proof.Machine

/-! ## Chunk and Word codes (R226 items 1 and 2) -/

theorem decodeCode_get (m c : Nat) {i : Nat} (h : i < 40) :
    (decodeCode m c).get i = if i < m then digitOf c i else .zero := TVec.get_ofFn _ h

theorem take_digits_eq_map_get (t : TVec) {m : Nat} (h : m ≤ 40) : t.digits.take m = (List.range m).map t.get := by
  apply List.ext_getElem
  · simp [h]
  · intro i h₁ h₂
    have hi : i < 40 := by simp only [List.length_map, List.length_range] at h₂; omega
    simp [TVec.get_eq_getElem _ hi]

/-- Decoding the code of the low `m` trits gives those trits back. -/
theorem decodeCode_codeOf_get (t : TVec) {m i : Nat} (hm : m ≤ 40) (hi : i < m) :
    (decodeCode m (codeOf (t.digits.take m))).get i = t.get i := by
  have hl : i < (t.digits.take m).length := by simp; omega
  rw [decodeCode_get _ _ (by omega), if_pos hi, digitOf_codeOf _ hl]
  simp [TVec.get_eq_getElem _ (show i < 40 by omega)]

/-- Coding the low `m` trits of a decoded code gives the code back. -/
theorem codeOf_decodeCode {m c : Nat} (hm : m ≤ 40) (hc : c < 3 ^ m) : codeOf ((decodeCode m c).digits.take m) = c := by
  have hd : (List.range m).map (decodeCode m c).get = (List.range m).map fun i => digitOf c i := by
    apply List.map_congr_left
    intro i hi
    have hi : i < m := by simpa using hi
    rw [decodeCode_get _ _ (by omega), if_pos hi]
  rw [take_digits_eq_map_get _ hm, hd, codeOf_digitOf _ _ hc]

/-! ## Chunked storage (R226 item 3) -/

theorem packChunk_code_lt (t : TVec) (n c : Nat) : codeOf (packChunk t n c) < 243 := by
  simpa [packChunk] using codeOf_lt (packChunk t n c)

theorem digitOf_packChunk (t : TVec) (n c : Nat) {j : Nat} (h : j < 5) :
    digitOf (codeOf (packChunk t n c)) j = if 5 * c + j < n then t.get (5 * c + j) else .zero := by
  rw [digitOf_codeOf _ (by simpa [packChunk] using h)]
  simp [packChunk]

theorem bytesNat_lt (l : List Nat) (h : ∀ b ∈ l, b < 256) : bytesNat l < 256 ^ l.length := by
  induction l with
  | nil => simp [bytesNat]
  | cons b l ih =>
    have hb := h b (by simp)
    have hl := ih fun x hx => h x (by simp [hx])
    rw [bytesNat, List.length_cons, pow_succ]
    omega

theorem bytesNat_byte (l : List Nat) (c : Nat) (h : ∀ b ∈ l, b < 256) : bytesNat l / 256 ^ c % 256 = l.getD c 0 := by
  induction l generalizing c with
  | nil => simp [bytesNat]
  | cons b l ih =>
    have hb := h b (by simp)
    cases c with
    | zero => simp [bytesNat]; omega
    | succ c =>
      rw [pow_succ', ← Nat.div_div_eq_div_mul, bytesNat, show (b + 256 * bytesNat l) / 256 = bytesNat l by omega,
        ih c fun x hx => h x (by simp [hx])]
      simp

/-- Byte `c` of what `pack n` stores: the chunk's code, or 0 beyond the chunks used. -/
theorem byteOf_packWord (t : TVec) {n : Nat} (c : Nat) (hn : n ≤ 40) :
    byteOf (packWord t n) c = if 5 * c < n then codeOf (packChunk t n c) else 0 := by
  have hbytes : ∀ b ∈ (List.range (chunkCount n)).map fun c => codeOf (packChunk t n c), b < 256 := by
    intro b hb
    obtain ⟨c, _, rfl⟩ := List.mem_map.mp hb
    have := packChunk_code_lt t n c
    omega
  have hword : bytesNat ((List.range (chunkCount n)).map fun c => codeOf (packChunk t n c)) < 2 ^ 64 := by
    have hlt := bytesNat_lt _ hbytes
    rw [List.length_map, List.length_range] at hlt
    have hpow : 256 ^ chunkCount n ≤ 256 ^ 8 := Nat.pow_le_pow_right (by decide) (by unfold chunkCount; omega)
    exact lt_of_lt_of_le hlt (hpow.trans (by norm_num))
  have hbyte := bytesNat_byte _ c hbytes
  unfold byteOf packWord
  rw [BitVec.extractLsb'_toNat, BitVec.toNat_ofNat, Nat.mod_eq_of_lt hword, Nat.shiftRight_eq_div_pow, pow_mul]
  norm_num at hbyte ⊢
  rw [hbyte]
  by_cases h : 5 * c < n
  · simp [h, show c < chunkCount n by unfold chunkCount; omega]
  · simp [h, show ¬ c < chunkCount n by unfold chunkCount; omega]

/-- `unpack n` refuses no chunk that `pack n` stored. -/
theorem packWord_not_refused (t : TVec) {n : Nat} (hn : n ≤ 40) :
    ((List.range (chunkCount n)).any fun c => chunkRefused (packWord t n) n c) = false := by
  rw [List.any_eq_false]
  intro c hc
  have hc : 5 * c < n := by simp only [List.mem_range, chunkCount] at hc; omega
  simp only [chunkRefused, byteOf_packWord t c hn, if_pos hc, Bool.or_eq_true, decide_eq_true_eq, List.any_eq_true,
    List.mem_range, Bool.and_eq_true, not_or, not_exists, not_and]
  refine ⟨by have := packChunk_code_lt t n c; omega, fun j hj hp hz => hz ?_⟩
  rw [digitOf_packChunk t n c hj, if_neg (by omega)]

/-- `unpack n` decodes what `pack n` stored to the trits it was given. -/
theorem unpackVec_packWord_get (t : TVec) {n i : Nat} (hn : n ≤ 40) (hi : i < n) :
    (unpackVec (packWord t n) n).get i = t.get i := by
  rw [unpackVec, TVec.get_ofFn _ (by omega), if_pos hi, byteOf_packWord t _ hn, if_pos (by omega),
    digitOf_packChunk _ _ _ (by omega), if_pos (by omega)]
  congr 1
  omega

end Sys2Proof.Machine
end

