-- ==== Sys2Proof/Laws/Config.lean ====
section
/-! SUPPORT. What admissible tables (`Config.lawful`) give, one lemma per rule, and that the default tables are
admissible. -/

namespace Sys2Proof

theorem Trit.mem_all (a : Trit) : a ∈ Trit.all := by cases a <;> decide

theorem UnOp.mem_all (o : UnOp) : o ∈ UnOp.all := by cases o <;> decide

theorem BinOp.mem_all (o : BinOp) : o ∈ BinOp.all := by cases o <;> decide

section
variable {c : Config} (h : c.lawful = true)
include h

theorem lawful_parts :
    (∀ o, c.unaryCarryOk o = true) ∧ (∀ o a b, c.binaryEntryOk o a b = true) ∧
      (∀ a, c.unaryArithOk a = true) ∧ (∀ a, c.postPreOk a = true) ∧ (∀ a b, c.binaryArithOk a b = true) ∧
      c.exampleEntriesOk = true := by
  simp only [Config.lawful, Bool.and_eq_true, List.all_eq_true] at h
  obtain ⟨⟨⟨⟨h₁, h₂⟩, h₃⟩, h₄⟩, h₅⟩ := h
  exact ⟨fun o => h₁ o o.mem_all, fun o a b => h₂ o o.mem_all a a.mem_all b b.mem_all, fun a => (h₃ a a.mem_all).1,
    fun a => (h₃ a a.mem_all).2, fun a b => h₄ a a.mem_all b b.mem_all, h₅⟩

/-- R102: only `inc` and `dec` have carries. -/
theorem lawful_unary_carry {o : UnOp} (hi : o ≠ .inc) (hd : o ≠ .dec) (a : Trit) :
    ((c.unary o).at a).carry = .zero := by
  have hu := (lawful_parts h).1 o
  simp only [Config.unaryCarryOk, hi, hd, decide_false, Bool.false_or, List.all_eq_true, decide_eq_true_eq] at hu
  exact hu a a.mem_all

/-- R102: only `div` with a Zero right operand is undefined. -/
theorem lawful_binary_undefined (o : BinOp) (a b : Trit) :
    (c.binary o).at a b = none ↔ o = .div ∧ b = .zero := by
  have hb := (lawful_parts h).2.1 o a b
  unfold Config.binaryEntryOk at hb
  split at hb
  · simp_all
  · simp_all
    tauto

/-- R102: only `add` and `sub` have carries. -/
theorem lawful_binary_carry {o : BinOp} (ha : o ≠ .add) (hs : o ≠ .sub) {a b : Trit} {d : Digits}
    (hd : (c.binary o).at a b = some d) : d.carry = .zero := by
  have hb := (lawful_parts h).2.1 o a b
  simp only [Config.binaryEntryOk, hd, ha, hs, decide_false, Bool.false_or, Bool.and_eq_true,
    decide_eq_true_eq] at hb
  exact hb.2

theorem lawful_inc (a : Trit) : (c.lutInc.at a).value.toInt + 3 * (c.lutInc.at a).carry.toInt = a.toInt + 1 := by
  have ha := (lawful_parts h).2.2.1 a
  simp only [Config.unaryArithOk, Digits.equals, Bool.and_eq_true, decide_eq_true_eq] at ha
  exact ha.1.1

theorem lawful_dec (a : Trit) : (c.lutDec.at a).value.toInt + 3 * (c.lutDec.at a).carry.toInt = a.toInt - 1 := by
  have ha := (lawful_parts h).2.2.1 a
  simp only [Config.unaryArithOk, Digits.equals, Bool.and_eq_true, decide_eq_true_eq] at ha
  exact ha.1.2

theorem lawful_negation (a : Trit) : (c.lutNegation.at a).value.toInt = -a.toInt := by
  have ha := (lawful_parts h).2.2.1 a
  have hz : (c.lutNegation.at a).carry = .zero := lawful_unary_carry h (o := .negation) (by decide) (by decide) a
  simp only [Config.unaryArithOk, Digits.equals, Bool.and_eq_true, decide_eq_true_eq, hz] at ha
  have h0 : Trit.zero.toInt = 0 := rfl
  rw [h0] at ha
  simpa using ha.2

theorem lawful_arith (a b : Trit) :
    (∃ d, c.lutAdd.at a b = some d ∧ d.value.toInt + 3 * d.carry.toInt = a.toInt + b.toInt) ∧
    (∃ d, c.lutSub.at a b = some d ∧ d.value.toInt + 3 * d.carry.toInt = a.toInt - b.toInt) ∧
    (∃ d, c.lutMul.at a b = some d ∧ d.value.toInt + 3 * d.carry.toInt = a.toInt * b.toInt) ∧
    (∀ d, c.lutDiv.at a b = some d → d.value.toInt + 3 * d.carry.toInt = a.toInt * b.toInt) := by
  have hb := (lawful_parts h).2.2.2.2.1 a b
  unfold Config.binaryArithOk at hb
  simp only [Bool.and_eq_true, Digits.equals] at hb
  obtain ⟨⟨⟨h₁, h₂⟩, h₃⟩, h₄⟩ := hb
  refine ⟨?_, ?_, ?_, ?_⟩
  · cases hd : c.lutAdd.at a b with
    | none => simp [hd] at h₁
    | some d => exact ⟨d, rfl, by simpa [hd] using h₁⟩
  · cases hd : c.lutSub.at a b with
    | none => simp [hd] at h₂
    | some d => exact ⟨d, rfl, by simpa [hd] using h₂⟩
  · cases hd : c.lutMul.at a b with
    | none => simp [hd] at h₃
    | some d => exact ⟨d, rfl, by simpa [hd] using h₃⟩
  · intro d hd
    simpa [hd] using h₄

end

/-- The default tables are admissible. -/
theorem defaultConfig_lawful : Machine.defaultConfig.lawful = true := by decide +kernel

end Sys2Proof
end

