-- ==== Sys2Proof/Laws/State.lean ====
section
/-! SUPPORT. One lemma per field per update of State, so that no proof unfolds a record update. -/

namespace Sys2Proof.Machine

section
variable (s : State)

@[simp] theorem State.raiseError_a (e : ErrorClass) : (s.raiseError e).a = s.a := rfl
@[simp] theorem State.raiseError_b (e : ErrorClass) : (s.raiseError e).b = s.b := rfl
@[simp] theorem State.raiseError_r (e : ErrorClass) : (s.raiseError e).r = s.r := rfl
@[simp] theorem State.raiseError_r2 (e : ErrorClass) : (s.raiseError e).r2 = s.r2 := rfl
@[simp] theorem State.raiseError_x (e : ErrorClass) : (s.raiseError e).x = s.x := rfl
@[simp] theorem State.raiseError_cmd (e : ErrorClass) : (s.raiseError e).cmd = s.cmd := rfl
@[simp] theorem State.raiseError_err (e : ErrorClass) : (s.raiseError e).err = BitVec.ofNat 3 e.code := rfl
@[simp] theorem State.raiseError_c (e : ErrorClass) : (s.raiseError e).c = s.c := rfl
@[simp] theorem State.raiseError_ov (e : ErrorClass) : (s.raiseError e).ov = s.ov := rfl
@[simp] theorem State.raiseError_sticky (e : ErrorClass) : (s.raiseError e).sticky = s.sticky ||| (1#8 <<< e.code) := rfl
@[simp] theorem State.raiseError_config (e : ErrorClass) : (s.raiseError e).config = s.config := rfl
@[simp] theorem State.raiseError_inputs (e : ErrorClass) : (s.raiseError e).inputs = s.inputs := rfl
@[simp] theorem State.raiseError_reply (e : ErrorClass) : (s.raiseError e).reply = s.reply := rfl

@[simp] theorem State.succeed_a (c : Trit) (ov : Bool) : (s.succeed c ov).a = s.a := rfl
@[simp] theorem State.succeed_b (c : Trit) (ov : Bool) : (s.succeed c ov).b = s.b := rfl
@[simp] theorem State.succeed_r (c : Trit) (ov : Bool) : (s.succeed c ov).r = s.r := rfl
@[simp] theorem State.succeed_r2 (c : Trit) (ov : Bool) : (s.succeed c ov).r2 = s.r2 := rfl
@[simp] theorem State.succeed_x (c : Trit) (ov : Bool) : (s.succeed c ov).x = s.x := rfl
@[simp] theorem State.succeed_cmd (c : Trit) (ov : Bool) : (s.succeed c ov).cmd = s.cmd := rfl
@[simp] theorem State.succeed_err (c : Trit) (ov : Bool) : (s.succeed c ov).err = 0#3 := rfl
@[simp] theorem State.succeed_c (c : Trit) (ov : Bool) : (s.succeed c ov).c = c := rfl
@[simp] theorem State.succeed_ov (c : Trit) (ov : Bool) : (s.succeed c ov).ov = ov := rfl
@[simp] theorem State.succeed_sticky (c : Trit) (ov : Bool) : (s.succeed c ov).sticky = s.sticky := rfl
@[simp] theorem State.succeed_config (c : Trit) (ov : Bool) : (s.succeed c ov).config = s.config := rfl
@[simp] theorem State.succeed_inputs (c : Trit) (ov : Bool) : (s.succeed c ov).inputs = s.inputs := rfl
@[simp] theorem State.succeed_reply (c : Trit) (ov : Bool) : (s.succeed c ov).reply = s.reply := rfl

@[simp] theorem State.setA_a (t : TVec) : (s.setA t).a = t := rfl
@[simp] theorem State.setA_b (t : TVec) : (s.setA t).b = s.b := rfl
@[simp] theorem State.setA_r (t : TVec) : (s.setA t).r = s.r := rfl
@[simp] theorem State.setA_r2 (t : TVec) : (s.setA t).r2 = s.r2 := rfl
@[simp] theorem State.setA_x (t : TVec) : (s.setA t).x = s.x := rfl
@[simp] theorem State.setA_cmd (t : TVec) : (s.setA t).cmd = s.cmd := rfl
@[simp] theorem State.setA_err (t : TVec) : (s.setA t).err = s.err := rfl
@[simp] theorem State.setA_c (t : TVec) : (s.setA t).c = s.c := rfl
@[simp] theorem State.setA_ov (t : TVec) : (s.setA t).ov = s.ov := rfl
@[simp] theorem State.setA_sticky (t : TVec) : (s.setA t).sticky = s.sticky := rfl
@[simp] theorem State.setA_config (t : TVec) : (s.setA t).config = s.config := rfl
@[simp] theorem State.setA_inputs (t : TVec) : (s.setA t).inputs = s.inputs := rfl
@[simp] theorem State.setA_reply (t : TVec) : (s.setA t).reply = s.reply := rfl

@[simp] theorem State.setB_a (t : TVec) : (s.setB t).a = s.a := rfl
@[simp] theorem State.setB_b (t : TVec) : (s.setB t).b = t := rfl
@[simp] theorem State.setB_r (t : TVec) : (s.setB t).r = s.r := rfl
@[simp] theorem State.setB_r2 (t : TVec) : (s.setB t).r2 = s.r2 := rfl
@[simp] theorem State.setB_x (t : TVec) : (s.setB t).x = s.x := rfl
@[simp] theorem State.setB_cmd (t : TVec) : (s.setB t).cmd = s.cmd := rfl
@[simp] theorem State.setB_err (t : TVec) : (s.setB t).err = s.err := rfl
@[simp] theorem State.setB_c (t : TVec) : (s.setB t).c = s.c := rfl
@[simp] theorem State.setB_ov (t : TVec) : (s.setB t).ov = s.ov := rfl
@[simp] theorem State.setB_sticky (t : TVec) : (s.setB t).sticky = s.sticky := rfl
@[simp] theorem State.setB_config (t : TVec) : (s.setB t).config = s.config := rfl
@[simp] theorem State.setB_inputs (t : TVec) : (s.setB t).inputs = s.inputs := rfl
@[simp] theorem State.setB_reply (t : TVec) : (s.setB t).reply = s.reply := rfl

@[simp] theorem State.setR_a (t : TVec) : (s.setR t).a = s.a := rfl
@[simp] theorem State.setR_b (t : TVec) : (s.setR t).b = s.b := rfl
@[simp] theorem State.setR_r (t : TVec) : (s.setR t).r = t := rfl
@[simp] theorem State.setR_r2 (t : TVec) : (s.setR t).r2 = s.r2 := rfl
@[simp] theorem State.setR_x (t : TVec) : (s.setR t).x = s.x := rfl
@[simp] theorem State.setR_cmd (t : TVec) : (s.setR t).cmd = s.cmd := rfl
@[simp] theorem State.setR_err (t : TVec) : (s.setR t).err = s.err := rfl
@[simp] theorem State.setR_c (t : TVec) : (s.setR t).c = s.c := rfl
@[simp] theorem State.setR_ov (t : TVec) : (s.setR t).ov = s.ov := rfl
@[simp] theorem State.setR_sticky (t : TVec) : (s.setR t).sticky = s.sticky := rfl
@[simp] theorem State.setR_config (t : TVec) : (s.setR t).config = s.config := rfl
@[simp] theorem State.setR_inputs (t : TVec) : (s.setR t).inputs = s.inputs := rfl
@[simp] theorem State.setR_reply (t : TVec) : (s.setR t).reply = s.reply := rfl

@[simp] theorem State.setR2_a (t : TVec) : (s.setR2 t).a = s.a := rfl
@[simp] theorem State.setR2_b (t : TVec) : (s.setR2 t).b = s.b := rfl
@[simp] theorem State.setR2_r (t : TVec) : (s.setR2 t).r = s.r := rfl
@[simp] theorem State.setR2_r2 (t : TVec) : (s.setR2 t).r2 = t := rfl
@[simp] theorem State.setR2_x (t : TVec) : (s.setR2 t).x = s.x := rfl
@[simp] theorem State.setR2_cmd (t : TVec) : (s.setR2 t).cmd = s.cmd := rfl
@[simp] theorem State.setR2_err (t : TVec) : (s.setR2 t).err = s.err := rfl
@[simp] theorem State.setR2_c (t : TVec) : (s.setR2 t).c = s.c := rfl
@[simp] theorem State.setR2_ov (t : TVec) : (s.setR2 t).ov = s.ov := rfl
@[simp] theorem State.setR2_sticky (t : TVec) : (s.setR2 t).sticky = s.sticky := rfl
@[simp] theorem State.setR2_config (t : TVec) : (s.setR2 t).config = s.config := rfl
@[simp] theorem State.setR2_inputs (t : TVec) : (s.setR2 t).inputs = s.inputs := rfl
@[simp] theorem State.setR2_reply (t : TVec) : (s.setR2 t).reply = s.reply := rfl

@[simp] theorem State.setX_a (v : Word) : (s.setX v).a = s.a := rfl
@[simp] theorem State.setX_b (v : Word) : (s.setX v).b = s.b := rfl
@[simp] theorem State.setX_r (v : Word) : (s.setX v).r = s.r := rfl
@[simp] theorem State.setX_r2 (v : Word) : (s.setX v).r2 = s.r2 := rfl
@[simp] theorem State.setX_x (v : Word) : (s.setX v).x = v := rfl
@[simp] theorem State.setX_cmd (v : Word) : (s.setX v).cmd = s.cmd := rfl
@[simp] theorem State.setX_err (v : Word) : (s.setX v).err = s.err := rfl
@[simp] theorem State.setX_c (v : Word) : (s.setX v).c = s.c := rfl
@[simp] theorem State.setX_ov (v : Word) : (s.setX v).ov = s.ov := rfl
@[simp] theorem State.setX_sticky (v : Word) : (s.setX v).sticky = s.sticky := rfl
@[simp] theorem State.setX_config (v : Word) : (s.setX v).config = s.config := rfl
@[simp] theorem State.setX_inputs (v : Word) : (s.setX v).inputs = s.inputs := rfl
@[simp] theorem State.setX_reply (v : Word) : (s.setX v).reply = s.reply := rfl

@[simp] theorem State.setCmd_a (w : Word) : (s.setCmd w).a = s.a := rfl
@[simp] theorem State.setCmd_b (w : Word) : (s.setCmd w).b = s.b := rfl
@[simp] theorem State.setCmd_r (w : Word) : (s.setCmd w).r = s.r := rfl
@[simp] theorem State.setCmd_r2 (w : Word) : (s.setCmd w).r2 = s.r2 := rfl
@[simp] theorem State.setCmd_x (w : Word) : (s.setCmd w).x = s.x := rfl
@[simp] theorem State.setCmd_cmd (w : Word) : (s.setCmd w).cmd = w := rfl
@[simp] theorem State.setCmd_err (w : Word) : (s.setCmd w).err = s.err := rfl
@[simp] theorem State.setCmd_c (w : Word) : (s.setCmd w).c = s.c := rfl
@[simp] theorem State.setCmd_ov (w : Word) : (s.setCmd w).ov = s.ov := rfl
@[simp] theorem State.setCmd_sticky (w : Word) : (s.setCmd w).sticky = s.sticky := rfl
@[simp] theorem State.setCmd_config (w : Word) : (s.setCmd w).config = s.config := rfl
@[simp] theorem State.setCmd_inputs (w : Word) : (s.setCmd w).inputs = s.inputs := rfl
@[simp] theorem State.setCmd_reply (w : Word) : (s.setCmd w).reply = s.reply := rfl

@[simp] theorem State.clearSticky_a (v : Word) : (s.clearSticky v).a = s.a := rfl
@[simp] theorem State.clearSticky_b (v : Word) : (s.clearSticky v).b = s.b := rfl
@[simp] theorem State.clearSticky_r (v : Word) : (s.clearSticky v).r = s.r := rfl
@[simp] theorem State.clearSticky_r2 (v : Word) : (s.clearSticky v).r2 = s.r2 := rfl
@[simp] theorem State.clearSticky_x (v : Word) : (s.clearSticky v).x = s.x := rfl
@[simp] theorem State.clearSticky_cmd (v : Word) : (s.clearSticky v).cmd = s.cmd := rfl
@[simp] theorem State.clearSticky_err (v : Word) : (s.clearSticky v).err = s.err := rfl
@[simp] theorem State.clearSticky_c (v : Word) : (s.clearSticky v).c = s.c := rfl
@[simp] theorem State.clearSticky_ov (v : Word) : (s.clearSticky v).ov = s.ov := rfl
@[simp] theorem State.clearSticky_sticky (v : Word) : (s.clearSticky v).sticky = s.sticky &&& ~~~(v.extractLsb' 8 8) := rfl
@[simp] theorem State.clearSticky_config (v : Word) : (s.clearSticky v).config = s.config := rfl
@[simp] theorem State.clearSticky_inputs (v : Word) : (s.clearSticky v).inputs = s.inputs := rfl
@[simp] theorem State.clearSticky_reply (v : Word) : (s.clearSticky v).reply = s.reply := rfl

@[simp] theorem State.setReply_a (v : Word) : (s.setReply v).a = s.a := rfl
@[simp] theorem State.setReply_b (v : Word) : (s.setReply v).b = s.b := rfl
@[simp] theorem State.setReply_r (v : Word) : (s.setReply v).r = s.r := rfl
@[simp] theorem State.setReply_r2 (v : Word) : (s.setReply v).r2 = s.r2 := rfl
@[simp] theorem State.setReply_x (v : Word) : (s.setReply v).x = s.x := rfl
@[simp] theorem State.setReply_cmd (v : Word) : (s.setReply v).cmd = s.cmd := rfl
@[simp] theorem State.setReply_err (v : Word) : (s.setReply v).err = s.err := rfl
@[simp] theorem State.setReply_c (v : Word) : (s.setReply v).c = s.c := rfl
@[simp] theorem State.setReply_ov (v : Word) : (s.setReply v).ov = s.ov := rfl
@[simp] theorem State.setReply_sticky (v : Word) : (s.setReply v).sticky = s.sticky := rfl
@[simp] theorem State.setReply_config (v : Word) : (s.setReply v).config = s.config := rfl
@[simp] theorem State.setReply_inputs (v : Word) : (s.setReply v).inputs = s.inputs := rfl
@[simp] theorem State.setReply_reply (v : Word) : (s.setReply v).reply = some v := rfl

@[simp] theorem State.takeInput_a (rest : List HostEvent) : (s.takeInput rest).a = s.a := rfl
@[simp] theorem State.takeInput_b (rest : List HostEvent) : (s.takeInput rest).b = s.b := rfl
@[simp] theorem State.takeInput_r (rest : List HostEvent) : (s.takeInput rest).r = s.r := rfl
@[simp] theorem State.takeInput_r2 (rest : List HostEvent) : (s.takeInput rest).r2 = s.r2 := rfl
@[simp] theorem State.takeInput_x (rest : List HostEvent) : (s.takeInput rest).x = s.x := rfl
@[simp] theorem State.takeInput_cmd (rest : List HostEvent) : (s.takeInput rest).cmd = s.cmd := rfl
@[simp] theorem State.takeInput_err (rest : List HostEvent) : (s.takeInput rest).err = s.err := rfl
@[simp] theorem State.takeInput_c (rest : List HostEvent) : (s.takeInput rest).c = s.c := rfl
@[simp] theorem State.takeInput_ov (rest : List HostEvent) : (s.takeInput rest).ov = s.ov := rfl
@[simp] theorem State.takeInput_sticky (rest : List HostEvent) : (s.takeInput rest).sticky = s.sticky := rfl
@[simp] theorem State.takeInput_config (rest : List HostEvent) : (s.takeInput rest).config = s.config := rfl
@[simp] theorem State.takeInput_inputs (rest : List HostEvent) : (s.takeInput rest).inputs = rest := rfl
@[simp] theorem State.takeInput_reply (rest : List HostEvent) : (s.takeInput rest).reply = none := rfl

@[simp] theorem State.resetRegisters_a : s.resetRegisters.a = zero40 := rfl
@[simp] theorem State.resetRegisters_b : s.resetRegisters.b = zero40 := rfl
@[simp] theorem State.resetRegisters_r : s.resetRegisters.r = zero40 := rfl
@[simp] theorem State.resetRegisters_r2 : s.resetRegisters.r2 = zero40 := rfl
@[simp] theorem State.resetRegisters_x : s.resetRegisters.x = 0#64 := rfl
@[simp] theorem State.resetRegisters_cmd : s.resetRegisters.cmd = 0#64 := rfl
@[simp] theorem State.resetRegisters_err : s.resetRegisters.err = 0#3 := rfl
@[simp] theorem State.resetRegisters_c : s.resetRegisters.c = .zero := rfl
@[simp] theorem State.resetRegisters_ov : s.resetRegisters.ov = false := rfl
@[simp] theorem State.resetRegisters_sticky : s.resetRegisters.sticky = 0#8 := rfl
@[simp] theorem State.resetRegisters_config : s.resetRegisters.config = s.config := rfl
@[simp] theorem State.resetRegisters_inputs : s.resetRegisters.inputs = s.inputs := rfl
@[simp] theorem State.resetRegisters_reply : s.resetRegisters.reply = none := rfl

end

end Sys2Proof.Machine
end

