-- ==== Sys2Proof/Laws/Ops.lean ====
section
/-! SUPPORT. One lemma per shared operation: everything it can answer. Later proofs cite these and do not unfold the
operations. -/

namespace Sys2Proof.Machine

/-! ## How a command ends -/

/-- The ways a command can end: in one of the errors that commands raise, or in success with its destinations written. -/
inductive Ends (s : State) : State → Prop where
  | error (e : ErrorClass) (h : e ≠ .parse ∧ e ≠ .illegal) : Ends s (s.raiseError e)
  | writesR (r : TVec) (c : Trit) (ov : Bool) : Ends s ((s.setR r).succeed c ov)
  | writesR2 (r r2 : TVec) (ov : Bool) : Ends s (((s.setR r).setR2 r2).succeed .zero ov)
  | writesX (v : Word) : Ends s ((s.setX v).succeed .zero false)
  | writesA (t : TVec) : Ends s ((s.setA t).succeed .zero false)
  | writesB (t : TVec) : Ends s ((s.setB t).succeed .zero false)

theorem fail_ends {e : ErrorClass} (h : e ≠ .parse ∧ e ≠ .illegal) (s : State) :
    ∃ t, fail e s = .next t ∧ Ends s t := ⟨_, rfl, .error e h⟩

theorem succeedR_ends (r : TVec) (c : Trit) (ov : Bool) (s : State) :
    ∃ t, succeedR r c ov s = .next t ∧ Ends s t := ⟨_, rfl, .writesR r c ov⟩

theorem succeedR2_ends (r r2 : TVec) (ov : Bool) (s : State) :
    ∃ t, succeedR2 r r2 ov s = .next t ∧ Ends s t := ⟨_, rfl, .writesR2 r r2 ov⟩

theorem succeedX_ends (v : Word) (s : State) : ∃ t, succeedX v s = .next t ∧ Ends s t := ⟨_, rfl, .writesX v⟩

theorem scalarUnary_ends (t : UnaryTable) (s : State) : ∃ u, scalarUnary t s = .next u ∧ Ends s u :=
  succeedR_ends _ _ _ s

theorem scalarBinary_ends (t : BinaryTable) (s : State) : ∃ u, scalarBinary t s = .next u ∧ Ends s u := by
  unfold scalarBinary
  cases t.at (s.a.get 0) (s.b.get 0) with
  | none => exact fail_ends (by decide) s
  | some d => exact succeedR_ends _ _ _ s

theorem lanesUnary_ends (t : UnaryTable) (s : State) : ∃ u, lanesUnary t s = .next u ∧ Ends s u :=
  succeedR_ends _ _ _ s

theorem lanesBinary_ends (t : BinaryTable) (right : Nat → Trit) (s : State) :
    ∃ u, lanesBinary t right s = .next u ∧ Ends s u := by
  unfold lanesBinary
  split
  · exact fail_ends (by decide) s
  · exact succeedR_ends _ _ _ s

theorem execDiv_ends (s : State) : ∃ u, execDiv s = .next u ∧ Ends s u := by
  unfold execDiv
  split
  · exact fail_ends (by decide) s
  · exact succeedR2_ends _ _ _ s

theorem execFromdec_ends (s : State) : ∃ u, execFromdec s = .next u ∧ Ends s u := by
  unfold execFromdec
  split
  · exact fail_ends (by decide) s
  · exact succeedR_ends _ _ _ s

theorem execCdec_ends (s : State) : ∃ u, execCdec s = .next u ∧ Ends s u := by
  unfold execCdec
  split
  · exact fail_ends (by decide) s
  · exact succeedR_ends _ _ _ s

theorem execWdec_ends (s : State) : ∃ u, execWdec s = .next u ∧ Ends s u := by
  unfold execWdec
  split
  · exact fail_ends (by decide) s
  · exact succeedR_ends _ _ _ s

theorem execUnpack_ends (n : Nat) (s : State) : ∃ u, execUnpack n s = .next u ∧ Ends s u := by
  unfold execUnpack
  split
  · exact fail_ends (by decide) s
  · exact succeedR_ends _ _ _ s

/-! ## Families of commands -/

theorem exec_dun (o : UnOp) (s : State) : exec (dunInstr o) s = scalarUnary (s.config.unary o) s := by
  cases o <;> rfl

theorem exec_dbin (o : BinOp) (s : State) : exec (dbinInstr o) s = scalarBinary (s.config.binary o) s := by
  cases o <;> rfl

theorem exec_each (o : UnOp) (s : State) : exec (eachInstr o) s = lanesUnary (s.config.unary o) s := by
  cases o <;> rfl

theorem exec_eachw (o : BinOp) (d : Trit) (s : State) :
    exec (eachwInstr d o) s = lanesBinary (s.config.binary o) (fun _ => d) s := by
  cases o <;> rfl

theorem exec_zip (o : BinOp) (s : State) : exec (zipInstr o) s = lanesBinary (s.config.binary o) s.b.get s := by
  cases o <;> rfl

/-- The commands outside the digit families. -/
inductive Plain : Instr → Prop where
  | add : Plain .add
  | sub : Plain .sub
  | mul : Plain .mul
  | div : Plain .div
  | cmp : Plain .cmp
  | shl (k : Nat) : Plain (.shl k)
  | shr (k : Nat) : Plain (.shr k)
  | fromdec : Plain .fromdec
  | todec : Plain .todec
  | movAR : Plain .movAR
  | movBR : Plain .movBR
  | movAR2 : Plain .movAR2
  | movBR2 : Plain .movBR2
  | cenc : Plain .cenc
  | cdec : Plain .cdec
  | wenc : Plain .wenc
  | wdec : Plain .wdec
  | pack (n : Nat) : Plain (.pack n)
  | unpack (n : Nat) : Plain (.unpack n)

/-- The unary digit operation that a command's SEL names, where it names one. -/
def selUnary (i : Instr) : UnOp := (unOp i.fields.sel).getD .negation

/-- The binary digit operation that a command's SEL names, where it names one. -/
def selBinary (i : Instr) : BinOp := (binOp i.fields.sel).getD .add

theorem instr_family_sel (i : Instr) :
    i = dunInstr (selUnary i) ∨ i = dbinInstr (selBinary i) ∨ i = eachInstr (selUnary i) ∨
      i = eachwInstr i.fields.d (selBinary i) ∨ i = zipInstr (selBinary i) ∨ Plain i := by
  cases i <;> first
    | exact .inl rfl
    | exact .inr (.inl rfl)
    | exact .inr (.inr (.inl rfl))
    | exact .inr (.inr (.inr (.inl rfl)))
    | exact .inr (.inr (.inr (.inr (.inl rfl))))
    | exact .inr (.inr (.inr (.inr (.inr (by constructor)))))

/-- Every command belongs to a digit family or is one of the others: the case split that later proofs use. -/
theorem instr_family (i : Instr) :
    (∃ o, i = dunInstr o) ∨ (∃ o, i = dbinInstr o) ∨ (∃ o, i = eachInstr o) ∨ (∃ o d, i = eachwInstr d o) ∨
      (∃ o, i = zipInstr o) ∨ Plain i := by
  rcases instr_family_sel i with h | h | h | h | h | h
  · exact .inl ⟨_, h⟩
  · exact .inr (.inl ⟨_, h⟩)
  · exact .inr (.inr (.inl ⟨_, h⟩))
  · exact .inr (.inr (.inr (.inl ⟨_, _, h⟩)))
  · exact .inr (.inr (.inr (.inr (.inl ⟨_, h⟩))))
  · exact .inr (.inr (.inr (.inr (.inr h))))

/-- Every command answers a next state, in one of the ways `Ends` lists (60_exceptions.md R250). -/
theorem exec_ends (i : Instr) (s : State) : ∃ t, exec i s = .next t ∧ Ends s t := by
  rcases instr_family i with ⟨o, rfl⟩ | ⟨o, rfl⟩ | ⟨o, rfl⟩ | ⟨o, d, rfl⟩ | ⟨o, rfl⟩ | h
  · rw [exec_dun]; exact scalarUnary_ends _ s
  · rw [exec_dbin]; exact scalarBinary_ends _ s
  · rw [exec_each]; exact lanesUnary_ends _ s
  · rw [exec_eachw]; exact lanesBinary_ends _ _ s
  · rw [exec_zip]; exact lanesBinary_ends _ _ s
  · cases h with
    | add => exact succeedR_ends _ _ _ s
    | sub => exact succeedR_ends _ _ _ s
    | mul => exact succeedR2_ends _ _ _ s
    | div => exact execDiv_ends s
    | cmp => exact succeedR_ends _ _ _ s
    | shl k => exact succeedR_ends _ _ _ s
    | shr k => exact succeedR_ends _ _ _ s
    | fromdec => exact execFromdec_ends s
    | todec => exact succeedX_ends _ s
    | movAR => exact ⟨_, rfl, .writesA _⟩
    | movBR => exact ⟨_, rfl, .writesB _⟩
    | movAR2 => exact ⟨_, rfl, .writesA _⟩
    | movBR2 => exact ⟨_, rfl, .writesB _⟩
    | cenc => exact succeedX_ends _ s
    | cdec => exact execCdec_ends s
    | wenc => exact succeedX_ends _ s
    | wdec => exact execWdec_ends s
    | pack n => exact succeedX_ends _ s
    | unpack n => exact execUnpack_ends n s

/-- The inversion form of `exec_ends`. -/
theorem exec_next {i : Instr} {s t : State} (h : exec i s = .next t) : Ends s t := by
  obtain ⟨u, hu, he⟩ := exec_ends i s
  rw [hu] at h
  cases h
  exact he

end Sys2Proof.Machine
end

