-- ==== Sys2Proof/Laws/PerInstr.lean ====
section
/-! SUPPORT. The per-instruction laws: RSV, bits 63:19, is 0 in the word of every well-formed command
(30_encoding.md section 1, R70). -/

namespace Sys2Proof.Laws.ReservedFieldZero

/-- The word of a well-formed command has RSV 0. -/
def Statement (i : Instr) : Prop := i.wellFormed = true → rsvField (encode i) = 0#45

/-- The word of a class with a count of at most 63 and the other fields 0 has RSV 0. -/
theorem rsv_of_count (c : OpClass) (k : Nat) (h : k ≤ 63) :
    rsvField (CommandFields.word ⟨c, 0, .zero, k⟩) = 0#45 := by
  have hk : ∀ n : Fin 64, rsvField (CommandFields.word ⟨c, 0, .zero, n.val⟩) = 0#45 := by
    cases c <;> decide +kernel
  exact hk ⟨k, by omega⟩

theorem dunNegation : Statement .dunNegation := fun _ => by decide

theorem dunPossibly : Statement .dunPossibly := fun _ => by decide

theorem dunNecessary : Statement .dunNecessary := fun _ => by decide

theorem dunContingently : Statement .dunContingently := fun _ => by decide

theorem dunHtNot : Statement .dunHtNot := fun _ => by decide

theorem dunPost : Statement .dunPost := fun _ => by decide

theorem dunPre : Statement .dunPre := fun _ => by decide

theorem dunAbsolutePositive : Statement .dunAbsolutePositive := fun _ => by decide

theorem dunPositive : Statement .dunPositive := fun _ => by decide

theorem dunNotNegative : Statement .dunNotNegative := fun _ => by decide

theorem dunNotPositive : Statement .dunNotPositive := fun _ => by decide

theorem dunNegative : Statement .dunNegative := fun _ => by decide

theorem dunAbsoluteNegative : Statement .dunAbsoluteNegative := fun _ => by decide

theorem dunInc : Statement .dunInc := fun _ => by decide

theorem dunDec : Statement .dunDec := fun _ => by decide

theorem dbinAdd : Statement .dbinAdd := fun _ => by decide

theorem dbinSub : Statement .dbinSub := fun _ => by decide

theorem dbinMul : Statement .dbinMul := fun _ => by decide

theorem dbinDiv : Statement .dbinDiv := fun _ => by decide

theorem dbinBitand : Statement .dbinBitand := fun _ => by decide

theorem dbinBitor : Statement .dbinBitor := fun _ => by decide

theorem dbinBitxor : Statement .dbinBitxor := fun _ => by decide

theorem dbinK3Equiv : Statement .dbinK3Equiv := fun _ => by decide

theorem dbinK3Imply : Statement .dbinK3Imply := fun _ => by decide

theorem dbinBi3And : Statement .dbinBi3And := fun _ => by decide

theorem dbinBi3Or : Statement .dbinBi3Or := fun _ => by decide

theorem dbinBi3Imply : Statement .dbinBi3Imply := fun _ => by decide

theorem dbinL3Imply : Statement .dbinL3Imply := fun _ => by decide

theorem dbinRm3Imply : Statement .dbinRm3Imply := fun _ => by decide

theorem dbinParaImply : Statement .dbinParaImply := fun _ => by decide

theorem dbinHtImply : Statement .dbinHtImply := fun _ => by decide

theorem eachNegation : Statement .eachNegation := fun _ => by decide

theorem eachPossibly : Statement .eachPossibly := fun _ => by decide

theorem eachNecessary : Statement .eachNecessary := fun _ => by decide

theorem eachContingently : Statement .eachContingently := fun _ => by decide

theorem eachHtNot : Statement .eachHtNot := fun _ => by decide

theorem eachPost : Statement .eachPost := fun _ => by decide

theorem eachPre : Statement .eachPre := fun _ => by decide

theorem eachAbsolutePositive : Statement .eachAbsolutePositive := fun _ => by decide

theorem eachPositive : Statement .eachPositive := fun _ => by decide

theorem eachNotNegative : Statement .eachNotNegative := fun _ => by decide

theorem eachNotPositive : Statement .eachNotPositive := fun _ => by decide

theorem eachNegative : Statement .eachNegative := fun _ => by decide

theorem eachAbsoluteNegative : Statement .eachAbsoluteNegative := fun _ => by decide

theorem eachInc : Statement .eachInc := fun _ => by decide

theorem eachDec : Statement .eachDec := fun _ => by decide

theorem eachwAdd (d : Trit) : Statement (.eachwAdd d) := fun _ => by cases d <;> decide

theorem eachwSub (d : Trit) : Statement (.eachwSub d) := fun _ => by cases d <;> decide

theorem eachwMul (d : Trit) : Statement (.eachwMul d) := fun _ => by cases d <;> decide

theorem eachwDiv (d : Trit) : Statement (.eachwDiv d) := fun _ => by cases d <;> decide

theorem eachwBitand (d : Trit) : Statement (.eachwBitand d) := fun _ => by cases d <;> decide

theorem eachwBitor (d : Trit) : Statement (.eachwBitor d) := fun _ => by cases d <;> decide

theorem eachwBitxor (d : Trit) : Statement (.eachwBitxor d) := fun _ => by cases d <;> decide

theorem eachwK3Equiv (d : Trit) : Statement (.eachwK3Equiv d) := fun _ => by cases d <;> decide

theorem eachwK3Imply (d : Trit) : Statement (.eachwK3Imply d) := fun _ => by cases d <;> decide

theorem eachwBi3And (d : Trit) : Statement (.eachwBi3And d) := fun _ => by cases d <;> decide

theorem eachwBi3Or (d : Trit) : Statement (.eachwBi3Or d) := fun _ => by cases d <;> decide

theorem eachwBi3Imply (d : Trit) : Statement (.eachwBi3Imply d) := fun _ => by cases d <;> decide

theorem eachwL3Imply (d : Trit) : Statement (.eachwL3Imply d) := fun _ => by cases d <;> decide

theorem eachwRm3Imply (d : Trit) : Statement (.eachwRm3Imply d) := fun _ => by cases d <;> decide

theorem eachwParaImply (d : Trit) : Statement (.eachwParaImply d) := fun _ => by cases d <;> decide

theorem eachwHtImply (d : Trit) : Statement (.eachwHtImply d) := fun _ => by cases d <;> decide

theorem zipAdd : Statement .zipAdd := fun _ => by decide

theorem zipSub : Statement .zipSub := fun _ => by decide

theorem zipMul : Statement .zipMul := fun _ => by decide

theorem zipDiv : Statement .zipDiv := fun _ => by decide

theorem zipBitand : Statement .zipBitand := fun _ => by decide

theorem zipBitor : Statement .zipBitor := fun _ => by decide

theorem zipBitxor : Statement .zipBitxor := fun _ => by decide

theorem zipK3Equiv : Statement .zipK3Equiv := fun _ => by decide

theorem zipK3Imply : Statement .zipK3Imply := fun _ => by decide

theorem zipBi3And : Statement .zipBi3And := fun _ => by decide

theorem zipBi3Or : Statement .zipBi3Or := fun _ => by decide

theorem zipBi3Imply : Statement .zipBi3Imply := fun _ => by decide

theorem zipL3Imply : Statement .zipL3Imply := fun _ => by decide

theorem zipRm3Imply : Statement .zipRm3Imply := fun _ => by decide

theorem zipParaImply : Statement .zipParaImply := fun _ => by decide

theorem zipHtImply : Statement .zipHtImply := fun _ => by decide

theorem add : Statement .add := fun _ => by decide

theorem sub : Statement .sub := fun _ => by decide

theorem mul : Statement .mul := fun _ => by decide

theorem div : Statement .div := fun _ => by decide

theorem cmp : Statement .cmp := fun _ => by decide

theorem shl (k : Nat) : Statement (.shl k) := fun h => rsv_of_count _ k (of_decide_eq_true h)

theorem shr (k : Nat) : Statement (.shr k) := fun h => rsv_of_count _ k (of_decide_eq_true h)

theorem fromdec : Statement .fromdec := fun _ => by decide

theorem todec : Statement .todec := fun _ => by decide

theorem movAR : Statement .movAR := fun _ => by decide

theorem movBR : Statement .movBR := fun _ => by decide

theorem movAR2 : Statement .movAR2 := fun _ => by decide

theorem movBR2 : Statement .movBR2 := fun _ => by decide

theorem cenc : Statement .cenc := fun _ => by decide

theorem cdec : Statement .cdec := fun _ => by decide

theorem wenc : Statement .wenc := fun _ => by decide

theorem wdec : Statement .wdec := fun _ => by decide

theorem pack (n : Nat) : Statement (.pack n) :=
  fun h => rsv_of_count _ n (Nat.le_trans (of_decide_eq_true h) (by decide))

theorem unpack (n : Nat) : Statement (.unpack n) :=
  fun h => rsv_of_count _ n (Nat.le_trans (of_decide_eq_true h) (by decide))

end Sys2Proof.Laws.ReservedFieldZero
end

