-- ==== Sys2Proof/Laws/Step.lean ====
section
/-! SUPPORT. What a step can do: which accesses are admitted, and what serving each of them answers. -/

namespace Sys2Proof.Machine

variable {s t : State} {rest : List HostEvent} {off width : Nat} {v : Word}

theorem step_idle (h : s.inputs = []) : step s = .next s := by
  simp [step, serveNext, h]

theorem step_event {e : HostEvent} (h : s.inputs = e :: rest) : step s = serve e (s.takeInput rest) := by
  simp [step, serveNext, h]

/-- An access to the window is served at the register its offset selects when it has a step (20_memory.md R53). -/
theorem serveAccess_admitted {use : WindowReg → State → Answer} (ho : off < 256) (ha : off % 8 = 0) :
    serveAccess (s.config.tdlBase + off) 8 use s = use (windowReg off) s := by
  unfold serveAccess
  rw [if_neg (by omega), if_neg (by decide), if_neg (by omega)]
  congr 2
  omega

/-- Any other access to the window stops (20_memory.md R53). -/
theorem serveAccess_stuck {use : WindowReg → State → Answer} (h : ¬ (width = 8 ∧ off % 8 = 0)) :
    ∃ f, serveAccess (s.config.tdlBase + off) width use s = .fault f := by
  unfold serveAccess
  split
  · exact ⟨_, rfl⟩
  · split
    · exact ⟨_, rfl⟩
    · rw [if_pos (by omega)]
      exact ⟨_, rfl⟩

theorem step_write (ho : off < 256) (ha : off % 8 = 0) (h : writesNext s off v rest) :
    step s = writeReg (windowReg off) v (s.takeInput rest) := by
  rw [step_event h]
  exact serveAccess_admitted (s := s.takeInput rest) (use := fun g => writeReg g v) ho ha

theorem step_read (ho : off < 256) (ha : off % 8 = 0) (h : readsNext s off rest) :
    step s = .next ((s.takeInput rest).setReply (readReg (windowReg off) (s.takeInput rest))) := by
  rw [step_event h]
  exact serveAccess_admitted (s := s.takeInput rest) ho ha

/-- An access that answers a next state was admitted at some register of the map. -/
theorem serveAccess_next {addr : Nat} {use : WindowReg → State → Answer}
    (h : serveAccess addr width use s = .next t) : ∃ g, use g s = .next t := by
  unfold serveAccess at h
  split at h
  · cases h
  · split at h
    · cases h
    · split at h
      · cases h
      · exact ⟨_, h⟩

/-- A half write either is refused or stores into its register (10_state.md R23). -/
theorem writeHalf_cases (u : TVec) (base n : Nat) (v : Word) (set : TVec → State → State) (s : State) :
    writeHalf u base n v set s = s.raiseError .codec ∨
      writeHalf u base n v set s = set (withHalf u base n v) s := by
  unfold writeHalf
  split <;> simp

/-- What serving an event can leave: the registers' reset values, a read's reply, one of the host's writes, or the
outcome of a command word. -/
inductive Served (s : State) : State → Prop where
  | reset : Served s s.resetRegisters
  | reply (v : Word) : Served s (s.setReply v)
  | ignored : Served s s
  | refused : Served s (s.raiseError .codec)
  | setA (u : TVec) : Served s (s.setA u)
  | setB (u : TVec) : Served s (s.setB u)
  | setX (v : Word) : Served s (s.setX v)
  | clearSticky (v : Word) : Served s (s.clearSticky v)
  | illegal (w : Word) : Served s ((s.setCmd w).raiseError .illegal)
  | command (w : Word) (i : Instr) (hd : decode w = .ok i) (t : State) (he : Ends (s.setCmd w) t) : Served s t

theorem writeReg_served {g : WindowReg} (h : writeReg g v s = .next t) : Served s t := by
  have half : ∀ (u : TVec) (base n : Nat) (set : TVec → State → State), (∀ u, Served s (set u s)) →
      Host.Outcome.next (writeHalf u base n v set s) = (.next t : Answer) → Served s t := by
    intro u base n set hs hw
    rcases writeHalf_cases u base n v set s with e | e <;> rw [e] at hw <;> cases hw
    · exact .refused
    · exact hs _
  cases g
  case aLo => exact half _ _ _ _ .setA h
  case aHi => exact half _ _ _ _ .setA h
  case bLo => exact half _ _ _ _ .setB h
  case bHi => exact half _ _ _ _ .setB h
  case x => cases h; exact .setX v
  case status => cases h; exact .clearSticky v
  case cmd =>
    simp only [writeReg, writeCmd, runWord] at h
    split at h
    · exact .command v _ ‹_› _ (exec_next h)
    · cases h; exact .illegal v
  all_goals cases h; exact .ignored

/-- Everything a step that answers a next state has done. -/
theorem step_next (h : step s = .next t) :
    (s.inputs = [] ∧ t = s) ∨ ∃ e rest, s.inputs = e :: rest ∧ Served (s.takeInput rest) t := by
  match hi : s.inputs with
  | [] =>
    rw [step_idle hi] at h
    cases h
    exact .inl ⟨rfl, rfl⟩
  | e :: rest =>
    rw [step_event hi] at h
    refine .inr ⟨e, rest, rfl, ?_⟩
    cases e with
    | reset => cases h; exact .reset
    | read addr width =>
      obtain ⟨g, hg⟩ := serveAccess_next h
      cases hg
      exact .reply _
    | write addr width v =>
      obtain ⟨g, hg⟩ := serveAccess_next (use := fun g => writeReg g v) h
      exact writeReg_served hg

end Sys2Proof.Machine
end

