-- ==== Sys2Proof/Laws/Window.lean ====
section
/-! SUPPORT. The host's view of a vector register: what a half write stores and what a half read returns
(10_state.md R23, R24). -/

namespace Sys2Proof.Machine

theorem illegalPair_iff {v : Word} {n : Nat} : illegalPair v n = true ↔ ∃ i, i < n ∧ pairAt v i = 0b10#2 := by
  simp [illegalPair]

theorem not_illegalPair_iff {v : Word} {n : Nat} : illegalPair v n = false ↔ ∀ i, i < n → pairAt v i ≠ 0b10#2 := by
  simp [illegalPair]

theorem withHalf_get_inside {t : TVec} {base n i : Nat} {v : Word} (h : i < n) (hb : base + n ≤ 40) :
    (withHalf t base n v).get (base + i) = pairTrit (pairAt v i) := by
  rw [withHalf, TVec.get_ofFn _ (by omega), if_pos (by omega), Nat.add_sub_cancel_left]

theorem withHalf_get_outside {t : TVec} {base n j : Nat} {v : Word} (hj : j < 40) (h : j < base ∨ base + n ≤ j) :
    (withHalf t base n v).get j = t.get j := by
  rw [withHalf, TVec.get_ofFn _ hj, if_neg (by omega)]

/-- A stored pair is read back as it was written. -/
theorem pair_pairTrit {p : BitVec 2} (h : p ≠ 0b10#2) : (pairTrit p).pair = p := Trit.pair_ofPair h

theorem pairAt_ofNat (m i : Nat) (h : m < 2 ^ 64) : (pairAt (BitVec.ofNat 64 m) i).toNat = m / 4 ^ i % 4 := by
  simp only [pairAt, BitVec.extractLsb'_toNat, BitVec.toNat_ofNat, Nat.mod_eq_of_lt h, Nat.shiftRight_eq_div_pow,
    Nat.pow_mul]

theorem loWord_lt (t : TVec) : pairsNat (t.digits.take 32) < 2 ^ 64 := by
  have := pairsNat_lt (t.digits.take 32)
  simpa using this

theorem hiWord_lt (t : TVec) : pairsNat (t.digits.drop 32) < 2 ^ 16 := by
  have := pairsNat_lt (t.digits.drop 32)
  simpa using this

/-- Pair `i` of a LO half is trit `i` (10_state.md R24). -/
theorem pairAt_loWord (t : TVec) {i : Nat} (h : i < 32) : pairAt (loWord t) i = (t.get i).pair := by
  apply BitVec.eq_of_toNat_eq
  rw [loWord, pairAt_ofNat _ _ (loWord_lt t), pairsNat_pair _ (by simpa using h)]
  simp [TVec.get_eq_getElem _ (show i < 40 by omega)]

/-- Pair `i` of a HI half is trit `32+i` (10_state.md R24). -/
theorem pairAt_hiWord (t : TVec) {i : Nat} (h : i < 8) : pairAt (hiWord t) i = (t.get (32 + i)).pair := by
  apply BitVec.eq_of_toNat_eq
  have hlt := hiWord_lt t
  rw [hiWord, pairAt_ofNat _ _ (by omega), pairsNat_pair _ (by simp; omega)]
  simp [TVec.get_eq_getElem _ (show 32 + i < 40 by omega)]

/-- Two words with the same 32 pairs are equal. -/
theorem word_eq_of_pairs {v w : Word} (h : ∀ i, i < 32 → pairAt v i = pairAt w i) : v = w := by
  apply BitVec.eq_of_getLsbD_eq
  intro k hk
  have hp := congrArg (fun p => p.getLsbD (k % 2)) (h (k / 2) (by omega))
  have he : 2 * (k / 2) + k % 2 = k := by omega
  have hm : k % 2 ≤ 1 := by omega
  simpa [pairAt, BitVec.getLsbD_extractLsb', he, hm] using hp

end Sys2Proof.Machine
end

