-- ==== Sys2Proof/Machine/Assembly.lean ====
section
/-! DEFINITION. The spec's notation: trit strings (00_scope.md R11), the assembly spelling of a command (30_encoding.md
R78) and the pseudo-commands as host accesses (R79). Notation only: TDL40 has no text port. -/

namespace Sys2Proof.Machine

/-- The symbol of a trit (00_scope.md R11). -/
def tritSymbol : Trit → Char
  | .neg => '-'
  | .zero => '0'
  | .pos => '+'

/-- The trit of a symbol; anything that is no symbol counts as `0` (the strings of R11 hold symbols only; log 19). -/
def symbolTrit (c : Char) : Trit := if c = '+' then .pos else if c = '-' then .neg else .zero

/-- The vector a string stands for: most significant trit first, Zero in every higher position (00_scope.md R11). -/
def tritString (text : String) : TVec :=
  TVec.ofFn fun i => ((text.toList.map symbolTrit).reverse).getD i .zero

/-- The string of a vector, with its leading Zero trits left out (00_scope.md R11). -/
def showTrits (t : TVec) : String :=
  match t.digits.reverse.dropWhile (fun d => decide (d = .zero)) with
  | [] => "0"
  | d :: ds => String.ofList ((d :: ds).map tritSymbol)

/-- The name of a unary digit operation (30_encoding.md R72). -/
def unOpName : UnOp → String
  | .negation => "negation"
  | .possibly => "possibly"
  | .necessary => "necessary"
  | .contingently => "contingently"
  | .htNot => "ht_not"
  | .post => "post"
  | .pre => "pre"
  | .absolutePositive => "absolute_positive"
  | .positive => "positive"
  | .notNegative => "not_negative"
  | .notPositive => "not_positive"
  | .negative => "negative"
  | .absoluteNegative => "absolute_negative"
  | .inc => "inc"
  | .dec => "dec"

/-- The name of a binary digit operation (30_encoding.md R73). -/
def binOpName : BinOp → String
  | .add => "add"
  | .sub => "sub"
  | .mul => "mul"
  | .div => "div"
  | .bitand => "bitand"
  | .bitor => "bitor"
  | .bitxor => "bitxor"
  | .k3Equiv => "k3_equiv"
  | .k3Imply => "k3_imply"
  | .bi3And => "bi3_and"
  | .bi3Or => "bi3_or"
  | .bi3Imply => "bi3_imply"
  | .l3Imply => "l3_imply"
  | .rm3Imply => "rm3_imply"
  | .paraImply => "para_imply"
  | .htImply => "ht_imply"

/-- The OP stem of a class (30_encoding.md R71). -/
def opStem : OpClass → String
  | .dun => "dun"
  | .dbin => "dbin"
  | .each => "each"
  | .eachw => "eachw"
  | .zip => "zip"
  | .add => "add"
  | .sub => "sub"
  | .mul => "mul"
  | .div => "div"
  | .cmp => "cmp"
  | .shl => "shl"
  | .shr => "shr"
  | .fromdec => "fromdec"
  | .todec => "todec"
  | .mov => "mov"
  | .cenc => "cenc"
  | .cdec => "cdec"
  | .wenc => "wenc"
  | .wdec => "wdec"
  | .pack => "pack"
  | .unpack => "unpack"

/-- The operands of `mov` by SEL (30_encoding.md R78). -/
def movOperands (sel : Nat) : String :=
  match sel with
  | 0 => "a,r"
  | 1 => "b,r"
  | 2 => "a,r2"
  | _ => "b,r2"

/-- The assembly spelling of a command (30_encoding.md R78). -/
def assembly (i : Instr) : String :=
  match i.fields.op.format with
  | .z => opStem i.fields.op
  | .u => opStem i.fields.op ++ "." ++ ((unOp i.fields.sel).map unOpName).getD ""
  | .b => opStem i.fields.op ++ "." ++ ((binOp i.fields.sel).map binOpName).getD ""
  | .bd => opStem i.fields.op ++ "." ++ ((binOp i.fields.sel).map binOpName).getD "" ++ " " ++
      String.ofList [tritSymbol i.fields.d]
  | .k => opStem i.fields.op ++ " " ++ toString i.fields.k
  | .m => opStem i.fields.op ++ " " ++ movOperands i.fields.sel

/-- The pseudo-commands (30_encoding.md R79). A decimal operand is the signed integer it writes. -/
inductive Pseudo where
  | seta (t : TVec)
  | setb (t : TVec)
  | setx (v : Int)
  | lda (v : Int)
  | ldb (v : Int)
  | neg
  | clrst
  | getr
deriving DecidableEq, Repr

/-- `wr NAME, v` for the register at an offset, and a command `c` as `wr CMD, <word of c>` (30_encoding.md R78). -/
def wrReg (base off : Nat) (v : Word) : HostEvent := .write (base + off) 8 v

/-- `rd NAME` (30_encoding.md R78). -/
def rdReg (base off : Nat) : HostEvent := .read (base + off) 8

/-- A command as the host access that delivers it (30_encoding.md R78). -/
def wrCommand (base : Nat) (i : Instr) : HostEvent := wrReg base cmdOffset (encode i)

/-- The host accesses a pseudo-command stands for, in order, on a window at `base` (30_encoding.md R79). -/
def expandPseudo (base : Nat) : Pseudo → List HostEvent
  | .seta t => [wrReg base 0x00 (loWord t), wrReg base 0x08 (hiWord t)]
  | .setb t => [wrReg base 0x10 (loWord t), wrReg base 0x18 (hiWord t)]
  | .setx v => [wrReg base 0x40 (BitVec.ofInt 64 v)]
  | .lda v => [wrReg base 0x40 (BitVec.ofInt 64 v), wrCommand base .fromdec, wrCommand base .movAR]
  | .ldb v => [wrReg base 0x40 (BitVec.ofInt 64 v), wrCommand base .fromdec, wrCommand base .movBR]
  | .neg => [wrCommand base .eachNegation]
  | .clrst => [wrReg base 0x50 0xFF00#64]
  | .getr => [rdReg base 0x20, rdReg base 0x28]

end Sys2Proof.Machine
end

