-- ==== Sys2Proof/Tests/Slice0.lean ====
section
/-! SUPPORT. Tests of the model, their expected results from 95_test_vectors.md and 30_encoding.md, and for every statement
with hypotheses a state and operands that meet them. -/

open Sys2Proof Sys2Proof.Machine

namespace Sys2Proof.Tests

set_option Elab.async false

/-! ## Well-formedness: an ill-formed command for each check (30_encoding.md R75) -/

theorem test_shl_count_above_63_refused : Instr.wellFormed (.shl 64) = false := by decide
theorem test_shr_count_above_63_refused : Instr.wellFormed (.shr 64) = false := by decide
theorem test_pack_count_above_40_refused : Instr.wellFormed (.pack 41) = false := by decide
theorem test_unpack_count_above_40_refused : Instr.wellFormed (.unpack 41) = false := by decide
theorem test_counts_at_their_bounds_accepted :
    (Instr.shl 63).wellFormed = true ∧ (Instr.shr 63).wellFormed = true ∧ (Instr.pack 40).wellFormed = true ∧
      (Instr.unpack 40).wellFormed = true := by decide

/-! ## Decoding: RSV, K, D, SEL and OP written out bit by bit (30_encoding.md section 1) -/

/-- A command word from its fields, OP in bits 5:0 up to RSV in bits 63:19. -/
def fields (rsv : BitVec 45) (k : BitVec 6) (d : BitVec 2) (sel : BitVec 5) (op : BitVec 6) : Word :=
  (rsv ++ k ++ d ++ sel ++ op : BitVec 64)

/-- What the decoder answers for a word written from its fields. -/
def reads (k : BitVec 6) (d : BitVec 2) (sel : BitVec 5) (op : BitVec 6) (i : Instr) : Prop :=
  decode (fields 0 k d sel op) = .ok i

theorem test_decode_dun_dec : reads 0b000000 0b00 0b01110 0b000001 .dunDec := by unfold reads; rfl
theorem test_decode_dbin_ht_imply : reads 0b000000 0b00 0b01111 0b000010 .dbinHtImply := by unfold reads; rfl
theorem test_decode_each_post : reads 0b000000 0b00 0b00101 0b000011 .eachPost := by unfold reads; rfl
theorem test_decode_eachw_ht_imply : reads 0b000000 0b11 0b01111 0b000100 (.eachwHtImply .neg) := by unfold reads; rfl
theorem test_decode_eachw_add : reads 0b000000 0b01 0b00000 0b000100 (.eachwAdd .pos) := by unfold reads; rfl
theorem test_decode_zip_bitand : reads 0b000000 0b00 0b00100 0b000101 .zipBitand := by unfold reads; rfl
theorem test_decode_add : reads 0b000000 0b00 0b00000 0b001000 .add := by unfold reads; rfl
theorem test_decode_sub : reads 0b000000 0b00 0b00000 0b001001 .sub := by unfold reads; rfl
theorem test_decode_mul : reads 0b000000 0b00 0b00000 0b001010 .mul := by unfold reads; rfl
theorem test_decode_div : reads 0b000000 0b00 0b00000 0b001011 .div := by unfold reads; rfl
theorem test_decode_cmp : reads 0b000000 0b00 0b00000 0b001100 .cmp := by unfold reads; rfl
theorem test_decode_shl_63 : reads 0b111111 0b00 0b00000 0b001101 (.shl 63) := by unfold reads; rfl
theorem test_decode_shr_1 : reads 0b000001 0b00 0b00000 0b001110 (.shr 1) := by unfold reads; rfl
theorem test_decode_fromdec : reads 0b000000 0b00 0b00000 0b010000 .fromdec := by unfold reads; rfl
theorem test_decode_todec : reads 0b000000 0b00 0b00000 0b010001 .todec := by unfold reads; rfl
theorem test_decode_mov_b_r2 : reads 0b000000 0b00 0b00011 0b010010 .movBR2 := by unfold reads; rfl
theorem test_decode_cenc : reads 0b000000 0b00 0b00000 0b011000 .cenc := by unfold reads; rfl
theorem test_decode_cdec : reads 0b000000 0b00 0b00000 0b011001 .cdec := by unfold reads; rfl
theorem test_decode_wenc : reads 0b000000 0b00 0b00000 0b011010 .wenc := by unfold reads; rfl
theorem test_decode_wdec : reads 0b000000 0b00 0b00000 0b011011 .wdec := by unfold reads; rfl
theorem test_decode_pack_11 : reads 0b001011 0b00 0b00000 0b011100 (.pack 11) := by unfold reads; rfl
theorem test_decode_unpack_40 : reads 0b101000 0b00 0b00000 0b011101 (.unpack 40) := by unfold reads; rfl

/-- The words of 95_test_vectors.md section 2.1 that are illegal, each with the check that it fails. -/
theorem test_illegal_words_are_rejected :
    decode 0x0#64 = .error .unassignedOp ∧ decode 0x6#64 = .error .unassignedOp ∧
    decode 0x3F#64 = .error .unassignedOp ∧ decode 0x3C1#64 = .error .selectorRange ∧
    decode 0x3C3#64 = .error .selectorRange ∧ decode 0x1004#64 = .error .illegalDigit ∧
    decode 0x808#64 = .error .unusedDigit ∧ decode 0x48#64 = .error .selectorRange ∧
    decode 0x200A#64 = .error .unusedCount ∧ decode 0x112#64 = .error .selectorRange ∧
    decode 0x5201C#64 = .error .countRange ∧ decode 0x80008#64 = .error .reservedBits ∧
    decode 0x8000000000000008#64 = .error .reservedBits := by
  refine ⟨?_, ?_, ?_, ?_, ?_, ?_, ?_, ?_, ?_, ?_, ?_, ?_, ?_⟩ <;> rfl

theorem test_encode_is_the_documented_word :
    encode .dunInc = 0x341#64 ∧ encode (.eachwBitor .neg) = 0x1944#64 ∧ encode (.pack 11) = 0x1601C#64 := by decide

theorem test_table_word_is_decoded : decodeTableWord 64 0x1944 = some (.eachwBitor .neg) := rfl

theorem test_assembly_spelling :
    assembly (.eachwBitor .neg) = "eachw.bitor -" ∧ assembly (.pack 11) = "pack 11" ∧ assembly .movBR = "mov b,r" := by
  decide +kernel

/-! ## One step of one command -/

/-- The state after reset with the operands written. -/
def start (a b : String) (x : Word) : State :=
  { State.reset with a := tritString a, b := tritString b, x := x }

/-- Whether the step that serves the command word `w` answers a next state that `p` holds of. -/
def runs (s : State) (w : Word) (p : State → Bool) : Bool :=
  match step (s.withFetchWord 64 w.toNat) with
  | .next t => p t
  | .fault _ => false
  | .refused _ => false

/-- The word `w` with A and B as given leaves R and STATUS as given. -/
def gives (w : Word) (a b r : String) (status : Word) : Bool :=
  runs (start a b 0) w fun t => decide (t.r = tritString r) && decide (statusWord t = status)

/-- The same, with R2 as well. -/
def givesBoth (w : Word) (a b r r2 : String) (status : Word) : Bool :=
  runs (start a b 0) w fun t =>
    decide (t.r = tritString r) && decide (t.r2 = tritString r2) && decide (statusWord t = status)

/-- The word `w` with A as given leaves X as given, with STATUS 0. -/
def givesX (w : Word) (a : String) (x : Word) : Bool :=
  runs (start a "0" 0) w fun t => decide (t.x = x) && decide (statusWord t = 0)

/-- The word `w` with X as given leaves R and STATUS as given. -/
def takesX (w x : Word) (r : String) (status : Word) : Bool :=
  runs (start "0" "0" x) w fun t => decide (t.r = tritString r) && decide (statusWord t = status)

/-- The word `w` with R = "+00" and R2 = "-+" leaves a state that `p` holds of. -/
def moves (w : Word) (p : State → Bool) : Bool :=
  runs { State.reset with r := tritString "+00", r2 := tritString "-+" } w p

/-! ### Digit commands (95_test_vectors.md section 2.3) -/

theorem test_dun_negation : gives 0x1#64 "-" "0" "+" 0x0#64 = true := by decide +kernel
theorem test_dun_possibly : gives 0x41#64 "0" "0" "+" 0x0#64 = true := by decide +kernel
theorem test_dun_necessary : gives 0x81#64 "0" "0" "-" 0x0#64 = true := by decide +kernel
theorem test_dun_contingently : gives 0xC1#64 "0" "0" "+" 0x0#64 = true := by decide +kernel
theorem test_dun_ht_not : gives 0x101#64 "0" "0" "-" 0x0#64 = true := by decide +kernel
theorem test_dun_post : gives 0x141#64 "+" "0" "-" 0x0#64 = true := by decide +kernel
theorem test_dun_pre : gives 0x181#64 "-" "0" "+" 0x0#64 = true := by decide +kernel
theorem test_dun_absolute_positive : gives 0x1C1#64 "-" "0" "+" 0x0#64 = true := by decide +kernel
theorem test_dun_positive : gives 0x201#64 "-" "0" "0" 0x0#64 = true := by decide +kernel
theorem test_dun_not_negative : gives 0x241#64 "0" "0" "+" 0x0#64 = true := by decide +kernel
theorem test_dun_not_positive : gives 0x281#64 "0" "0" "-" 0x0#64 = true := by decide +kernel
theorem test_dun_negative : gives 0x2C1#64 "+" "0" "0" 0x0#64 = true := by decide +kernel
theorem test_dun_absolute_negative : gives 0x301#64 "+" "0" "-" 0x0#64 = true := by decide +kernel
theorem test_dun_inc : gives 0x341#64 "+" "0" "+-" 0x8#64 = true := by decide +kernel
theorem test_dun_dec : gives 0x381#64 "-" "0" "-+" 0x18#64 = true := by decide +kernel
theorem test_dbin_add : gives 0x2#64 "+" "+" "+-" 0x8#64 = true := by decide +kernel
theorem test_dbin_sub : gives 0x42#64 "-" "+" "-+" 0x18#64 = true := by decide +kernel
theorem test_dbin_mul : gives 0x82#64 "-" "-" "+" 0x0#64 = true := by decide +kernel
theorem test_dbin_div : gives 0xC2#64 "+" "-" "-" 0x0#64 = true := by decide +kernel
theorem test_dbin_bitand : gives 0x102#64 "0" "-" "-" 0x0#64 = true := by decide +kernel
theorem test_dbin_bitor : gives 0x142#64 "0" "+" "+" 0x0#64 = true := by decide +kernel
theorem test_dbin_bitxor : gives 0x182#64 "+" "+" "-" 0x0#64 = true := by decide +kernel
theorem test_dbin_k3_equiv : gives 0x1C2#64 "-" "-" "+" 0x0#64 = true := by decide +kernel
theorem test_dbin_k3_imply : gives 0x202#64 "0" "0" "0" 0x0#64 = true := by decide +kernel
theorem test_dbin_bi3_and : gives 0x242#64 "-" "0" "0" 0x0#64 = true := by decide +kernel
theorem test_dbin_bi3_or : gives 0x282#64 "+" "0" "0" 0x0#64 = true := by decide +kernel
theorem test_dbin_bi3_imply : gives 0x2C2#64 "-" "0" "0" 0x0#64 = true := by decide +kernel
theorem test_dbin_l3_imply : gives 0x302#64 "0" "0" "+" 0x0#64 = true := by decide +kernel
theorem test_dbin_rm3_imply : gives 0x342#64 "0" "-" "-" 0x0#64 = true := by decide +kernel
theorem test_dbin_para_imply : gives 0x382#64 "-" "0" "+" 0x0#64 = true := by decide +kernel
theorem test_dbin_ht_imply : gives 0x3C2#64 "0" "0" "+" 0x0#64 = true := by decide +kernel
theorem test_dbin_div_by_zero : gives 0xC2#64 "+" "+0" "0" 0x803#64 = true := by decide +kernel

/-! ### Lanewise commands: the lanes' cells of section 2.3, and section 2.4 -/

theorem test_each_negation : gives 0x3#64 "+0-" "0" "-0+" 0x0#64 = true := by decide +kernel
theorem test_each_possibly :
    gives 0x43#64 "+0-" "0" "+++++++++++++++++++++++++++++++++++++++-" 0x0#64 = true := by decide +kernel
theorem test_each_necessary :
    gives 0x83#64 "+0-" "0" "-------------------------------------+--" 0x0#64 = true := by decide +kernel
theorem test_each_contingently :
    gives 0xC3#64 "+0-" "0" "+++++++++++++++++++++++++++++++++++++-+-" 0x0#64 = true := by decide +kernel
theorem test_each_ht_not :
    gives 0x103#64 "+0-" "0" "---------------------------------------+" 0x0#64 = true := by decide +kernel
theorem test_each_post :
    gives 0x143#64 "+0-" "0" "+++++++++++++++++++++++++++++++++++++-+0" 0x0#64 = true := by decide +kernel
theorem test_each_pre :
    gives 0x183#64 "+0-" "0" "-------------------------------------0-+" 0x0#64 = true := by decide +kernel
theorem test_each_absolute_positive : gives 0x1C3#64 "+0-" "0" "+0+" 0x0#64 = true := by decide +kernel
theorem test_each_positive : gives 0x203#64 "+0-" "0" "+00" 0x0#64 = true := by decide +kernel
theorem test_each_not_negative :
    gives 0x243#64 "+0-" "0" "+++++++++++++++++++++++++++++++++++++++0" 0x0#64 = true := by decide +kernel
theorem test_each_not_positive :
    gives 0x283#64 "+0-" "0" "-------------------------------------0--" 0x0#64 = true := by decide +kernel
theorem test_each_negative : gives 0x2C3#64 "+0-" "0" "00-" 0x0#64 = true := by decide +kernel
theorem test_each_absolute_negative : gives 0x303#64 "+0-" "0" "-0-" 0x0#64 = true := by decide +kernel
theorem test_each_inc :
    gives 0x343#64 "+0-" "0" "+++++++++++++++++++++++++++++++++++++-+0" 0x0#64 = true := by decide +kernel
theorem test_each_dec :
    gives 0x383#64 "+0-" "0" "-------------------------------------0-+" 0x0#64 = true := by decide +kernel
theorem test_eachw_add :
    gives 0x804#64 "+0-" "0" "+++++++++++++++++++++++++++++++++++++-+0" 0x0#64 = true := by decide +kernel
theorem test_eachw_sub :
    gives 0x844#64 "+0-" "0" "-------------------------------------0-+" 0x0#64 = true := by decide +kernel
theorem test_eachw_mul : gives 0x1884#64 "+0-" "0" "-0+" 0x0#64 = true := by decide +kernel
theorem test_eachw_div : gives 0x18C4#64 "+0-" "0" "-0+" 0x0#64 = true := by decide +kernel
theorem test_eachw_bitand : gives 0x104#64 "+0-" "0" "00-" 0x0#64 = true := by decide +kernel
theorem test_eachw_bitor : gives 0x1944#64 "+0-" "0" "+0-" 0x0#64 = true := by decide +kernel
theorem test_eachw_bitxor : gives 0x984#64 "+0-" "0" "-0+" 0x0#64 = true := by decide +kernel
theorem test_eachw_k3_equiv : gives 0x19C4#64 "+0-" "0" "-0+" 0x0#64 = true := by decide +kernel
theorem test_eachw_k3_imply : gives 0x1A04#64 "+0-" "0" "-0+" 0x0#64 = true := by decide +kernel
theorem test_eachw_bi3_and : gives 0x1A44#64 "+0-" "0" "-0-" 0x0#64 = true := by decide +kernel
theorem test_eachw_bi3_or : gives 0xA84#64 "+0-" "0" "+0+" 0x0#64 = true := by decide +kernel
theorem test_eachw_bi3_imply : gives 0x1AC4#64 "+0-" "0" "-0+" 0x0#64 = true := by decide +kernel
theorem test_eachw_l3_imply :
    gives 0x304#64 "+0-" "0" "+++++++++++++++++++++++++++++++++++++0++" 0x0#64 = true := by decide +kernel
theorem test_eachw_rm3_imply :
    gives 0x1B44#64 "+0-" "0" "---------------------------------------+" 0x0#64 = true := by decide +kernel
theorem test_eachw_para_imply :
    gives 0x1B84#64 "+0-" "0" "---------------------------------------+" 0x0#64 = true := by decide +kernel
theorem test_eachw_ht_imply :
    gives 0x3C4#64 "+0-" "0" "+++++++++++++++++++++++++++++++++++++0++" 0x0#64 = true := by decide +kernel
theorem test_eachw_div_by_zero : gives 0xC4#64 "+" "0" "0" 0x803#64 = true := by decide +kernel
theorem test_zip_add : gives 0x5#64 "+++000---" "+0-+0-+0-" "-+0+0-0-+" 0x0#64 = true := by decide +kernel
theorem test_zip_sub : gives 0x45#64 "+++000---" "+0-+0-+0-" "0+--0++-0" 0x0#64 = true := by decide +kernel
theorem test_zip_mul : gives 0x85#64 "+++000---" "+0-+0-+0-" "+0-000-0+" 0x0#64 = true := by decide +kernel
theorem test_zip_bitand : gives 0x105#64 "+++000---" "+0-+0-+0-" "+0-00----" 0x0#64 = true := by decide +kernel
theorem test_zip_bitor : gives 0x145#64 "+++000---" "+0-+0-+0-" "++++00+0-" 0x0#64 = true := by decide +kernel
theorem test_zip_bitxor : gives 0x185#64 "+++000---" "+0-+0-+0-" "-0+000+0-" 0x0#64 = true := by decide +kernel
theorem test_zip_k3_equiv : gives 0x1C5#64 "+++000---" "+0-+0-+0-" "+0-000-0+" 0x0#64 = true := by decide +kernel
theorem test_zip_k3_imply : gives 0x205#64 "+++000---" "+0-+0-+0-" "+0-+00+++" 0x0#64 = true := by decide +kernel
theorem test_zip_bi3_and : gives 0x245#64 "+++000---" "+0-+0-+0-" "+0-000-0-" 0x0#64 = true := by decide +kernel
theorem test_zip_bi3_or : gives 0x285#64 "+++000---" "+0-+0-+0-" "+0+000+0-" 0x0#64 = true := by decide +kernel
theorem test_zip_bi3_imply : gives 0x2C5#64 "+++000---" "+0-+0-+0-" "+0-000+0+" 0x0#64 = true := by decide +kernel
theorem test_zip_l3_imply :
    gives 0x305#64 "+++000---" "+0-+0-+0-" "++++++++++++++++++++++++++++++++0-++0+++" 0x0#64 = true := by decide +kernel
theorem test_zip_rm3_imply : gives 0x345#64 "+++000---" "+0-+0-+0-" "+--+0-+++" 0x0#64 = true := by decide +kernel
theorem test_zip_para_imply : gives 0x385#64 "+++000---" "+0-+0-+0-" "+0-+0-+++" 0x0#64 = true := by decide +kernel
theorem test_zip_ht_imply :
    gives 0x3C5#64 "+++000---" "+0-+0-+0-" "++++++++++++++++++++++++++++++++0-++-+++" 0x0#64 = true := by decide +kernel
theorem test_zip_div :
    gives 0xC5#64 "+-" "----------------------------------------" "-+" 0x0#64 = true := by decide +kernel
theorem test_zip_div_by_zero : gives 0xC5#64 "+-" "--" "0" 0x803#64 = true := by decide +kernel

/-! ### Integer arithmetic, conversion, moves and codec (95_test_vectors.md sections 2.5 to 2.7) -/

theorem test_add_wraps_negative :
    gives 0x8#64 "----------------------------------------" "----------------------------------------" "+" 0x38#64 = true := by decide +kernel
theorem test_add_carry :
    gives 0x8#64 "++++++++++++++++++++++++++++++++++++++++" "+" "----------------------------------------" 0x28#64 = true := by decide +kernel
theorem test_sub_carry :
    gives 0x9#64 "++++++++++++++++++++++++++++++++++++++++" "----------------------------------------" "-" 0x28#64 = true := by decide +kernel
theorem test_sub : gives 0x9#64 "++" "+00" "-++" 0x0#64 = true := by decide +kernel
theorem test_mul : givesBoth 0xA#64 "+++" "--" "-+0+-" "0" 0x0#64 = true := by decide +kernel
theorem test_mul_extreme :
    givesBoth 0xA#64 "++++++++++++++++++++++++++++++++++++++++" "++++++++++++++++++++++++++++++++++++++++" "-+-+-+-+-+-+-+-+-+-+-+-+-+-+-+-+-+-+-+-+" "+-+-+-+-+-+-+-+-+-+-+-+-+-+-+-+-+-+-+-+-" 0x20#64 = true := by decide +kernel
theorem test_div_negative_divisor : givesBoth 0xB#64 "+-+" "-+" "-0" "+" 0x0#64 = true := by decide +kernel
theorem test_div_by_zero : gives 0xB#64 "+++" "0" "0" 0x402#64 = true := by decide +kernel
theorem test_cmp : gives 0xC#64 "++" "+00" "-" 0x0#64 = true := by decide +kernel
theorem test_cmp_extremes :
    gives 0xC#64 "++++++++++++++++++++++++++++++++++++++++" "----------------------------------------" "+" 0x0#64 = true := by decide +kernel
theorem test_shl_39 :
    gives 0x4E00D#64 "+" "0" "+000000000000000000000000000000000000000" 0x0#64 = true := by decide +kernel
theorem test_shl_1_drops :
    gives 0x200D#64 "++++++++++++++++++++++++++++++++++++++++" "0" "+++++++++++++++++++++++++++++++++++++++0" 0x20#64 = true := by decide +kernel
theorem test_shr_1_rounds : gives 0x200E#64 "+-" "0" "+" 0x0#64 = true := by decide +kernel
theorem test_shr_40_all :
    gives 0x5000E#64 "++++++++++++++++++++++++++++++++++++++++" "0" "0" 0x0#64 = true := by decide +kernel
theorem test_fromdec_negative : takesX 0x10#64 0xFFFFFFFFFFFFFFFB#64 "-++" 0x0#64 = true := by decide +kernel
theorem test_fromdec_out_of_range : takesX 0x10#64 0x545C5A29148FF411#64 "0" 0x2005#64 = true := by decide +kernel
theorem test_todec_negative : givesX 0x11#64 "-++" 0xFFFFFFFFFFFFFFFB#64 = true := by decide +kernel
theorem test_todec_least :
    givesX 0x11#64 "----------------------------------------" 0xABA3A5D6EB700BF0#64 = true := by decide +kernel
theorem test_mov_a_r : moves 0x12#64 (fun t => decide (t.a = tritString "+00")) = true := by decide +kernel
theorem test_mov_b_r : moves 0x52#64 (fun t => decide (t.b = tritString "+00")) = true := by decide +kernel
theorem test_mov_a_r2 : moves 0x92#64 (fun t => decide (t.a = tritString "-+")) = true := by decide +kernel
theorem test_mov_b_r2 : moves 0xD2#64 (fun t => decide (t.b = tritString "-+")) = true := by decide +kernel
theorem test_cenc : givesX 0x18#64 "+0-0+" 0xC2#64 = true := by decide +kernel
theorem test_cenc_low_five : givesX 0x18#64 "-+0-+-0-+" 0xAD#64 = true := by decide +kernel
theorem test_cdec_top : takesX 0x19#64 0xF2#64 "+++++" 0x0#64 = true := by decide +kernel
theorem test_cdec_above_a_byte : takesX 0x19#64 0xF3#64 "0" 0x1004#64 = true := by decide +kernel
theorem test_wenc : givesX 0x1A#64 "+++" 0x545C5A29148FF41D#64 = true := by decide +kernel
theorem test_wenc_top :
    givesX 0x1A#64 "++++++++++++++++++++++++++++++++++++++++" 0xA8B8B452291FE820#64 = true := by decide +kernel
theorem test_wdec : takesX 0x1B#64 0x545C5A29148FF41D#64 "+++" 0x0#64 = true := by decide +kernel
theorem test_wdec_refused : takesX 0x1B#64 0xA8B8B452291FE821#64 "0" 0x1004#64 = true := by decide +kernel
theorem test_pack_11 : givesX 0x1601C#64 "+-0+-0+-0+-" 0x7A2EB1#64 = true := by decide +kernel
theorem test_pack_40_full :
    givesX 0x5001C#64 "++++++++++++++++++++++++++++++++++++++++" 0xF2F2F2F2F2F2F2F2#64 = true := by decide +kernel
theorem test_unpack_11 : takesX 0x1601D#64 0x7A2EB1#64 "+-0+-0+-0+-" 0x0#64 = true := by decide +kernel
theorem test_unpack_4_padding : takesX 0x801D#64 0x0#64 "0" 0x1004#64 = true := by decide +kernel

/-! ## The host interface (95_test_vectors.md section 2.2) -/

/-- The host's next access writes `v` at the window's offset `off`. -/
def writing (s : State) (off : Nat) (v : Word) : State := { s with inputs := [.write off 8 v] }

/-- The host's next access reads the window's offset `off`. -/
def reading (s : State) (off : Nat) : State := { s with inputs := [.read off 8] }

/-- The word that a read of the offset `off` returns. -/
def readBack (s : State) (off : Nat) : Option Word :=
  match step (reading s off) with
  | .next t => t.reply
  | .fault _ => none
  | .refused _ => none

/-- Whether writing `v` at `off` answers a next state that `p` holds of. -/
def writes (s : State) (off : Nat) (v : Word) (p : State → Bool) : Bool :=
  match step (writing s off v) with
  | .next t => p t
  | .fault _ => false
  | .refused _ => false

theorem test_illegal_command_word : runs (start "+" "0" 0) 0x6#64 (fun t => decide (statusWord t = 0x4006#64)) = true := by
  decide +kernel
theorem test_half_write_refused :
    writes State.reset 0x00 0x2#64 (fun t => decide (t.a = zero40) && decide (statusWord t = 0x1004#64)) = true := by
  decide +kernel
theorem test_high_half_write_ignores_upper_bits :
    writes State.reset 0x08 0xFFFF000000000001#64 (fun t => decide (hiWord t.a = 0x1#64)) = true := by decide +kernel
theorem test_half_write_stores_the_pairs :
    writes State.reset 0x00 0xD#64 (fun t => decide (t.a = tritString "-+")) = true := by decide +kernel
theorem test_sticky_is_cleared_by_ones :
    writes { State.reset with err := 4#3, sticky := 0x50#8 } 0x50 0x1000#64
      (fun t => decide (statusWord t = 0x4004#64)) = true := by decide +kernel
theorem test_result_write_is_ignored :
    writes State.reset 0x20 0x5#64 (fun t => decide (loWord t.r = 0#64)) = true := by decide +kernel
theorem test_read_of_a_half : readBack (start "-++" "0" 0) 0x00 = some 0x35#64 := by decide +kernel
theorem test_read_of_a_reserved_offset : readBack State.reset 0x58 = some 0#64 := by decide +kernel
theorem test_four_byte_access_is_stuck :
    step { State.reset with inputs := [.read 0 4] } = .fault .accessWidth := rfl
theorem test_misaligned_access_is_stuck :
    step { State.reset with inputs := [.read 4 8] } = .fault .misaligned := rfl
theorem test_access_outside_the_window :
    step { State.reset with inputs := [.read 256 8] } = .fault .outsideWindow := rfl

/-! ## Witnesses: for each statement with hypotheses, a state and operands that meet them -/

/-- The host's next accesses both write the command word `w`. -/
def writingTwice (s : State) (w : Word) : State := { s with inputs := [cmdWrite s w, cmdWrite s w] }

/-- Sample operands: the greatest A, the least B. -/
def extreme : State := start "++++++++++++++++++++++++++++++++++++++++" "----------------------------------------" 0

/-- Whether a command answers a next state that `p` holds of. -/
def ends (i : Instr) (s : State) (p : State → Bool) : Bool :=
  match exec i s with
  | .next t => p t
  | .fault _ => false
  | .refused _ => false

theorem ends_next {i : Instr} {s : State} {p : State → Bool} (h : ends i s p = true) :
    ∃ t, exec i s = .next t ∧ p t = true := by
  unfold ends at h
  cases hx : exec i s <;> simp_all

theorem ends_some {i : Instr} {s : State} (h : ends i s (fun _ => true) = true) : ∃ t, exec i s = .next t :=
  (ends_next h).imp fun _ ht => ht.1

theorem witness_ResetEventClearsEveryRegister :
    ({ extreme with inputs := [.reset] } : State).inputs = .reset :: [] := rfl

theorem witness_CmdWriteRunsTheDecodedCommand :
    writesNext (writing extreme 0x48 0x8#64) 0x48 0x8#64 [] ∧ decode 0x8#64 = .ok .add ∧
      readsNext (reading extreme 0x48) 0x48 [] := ⟨rfl, rfl, rfl⟩

theorem witness_IllegalWordChangesOnlyErrorState :
    writesNext (writing extreme 0x48 0x80008#64) 0x48 0x80008#64 [] ∧ decode 0x80008#64 = .error .reservedBits :=
  ⟨rfl, rfl⟩

/-- An access with a step at the window's last register, one of width 4 and one at the last byte. -/
theorem witness_OnlyAlignedEightByteAccessesHaveAStep :
    (248 < 256 ∧ (reading extreme 248).inputs = [.read (extreme.config.tdlBase + 248) 8] ∧ 8 = 8 ∧ 248 % 8 = 0) ∧
    (({ extreme with inputs := [.write 0 4 0] } : State).inputs = [.write (extreme.config.tdlBase + 0) 4 0] ∧
      ¬ (4 = 8 ∧ 0 % 8 = 0)) ∧
    (({ extreme with inputs := [.read 255 8] } : State).inputs = [.read (extreme.config.tdlBase + 255) 8] ∧
      ¬ (8 = 8 ∧ 255 % 8 = 0)) := ⟨⟨by decide, rfl, rfl, rfl⟩, ⟨rfl, by decide⟩, ⟨rfl, by decide⟩⟩

theorem witness_OneAccessIsServedPerStep :
    (writing extreme 0x40 1#64).inputs = .write 0x40 8 1#64 :: [] ∧
      writes extreme 0x40 1#64 (fun _ => true) = true ∧ extreme.inputs = [] :=
  ⟨rfl, by decide +kernel, rfl⟩

/-- Every row of the map, among them the first and the last offset of the reserved range. -/
theorem witness_ReadsReturnTheMappedRegister :
    (∀ off, readsNext (reading extreme off) off []) ∧ (0x58 < 256 ∧ 0x58 % 8 = 0) ∧ 0xF8 < 256 ∧ 0xF8 % 8 = 0 := by
  refine ⟨fun off => ?_, by decide, by decide, by decide⟩
  show [HostEvent.read off 8] = [HostEvent.read (0 + off) 8]
  rw [Nat.zero_add]

theorem witness_HalvesHoldTheTritPairs :
    readsNext (reading extreme 0x00) 0x00 [] ∧ readsNext (reading extreme (0x00 + 8)) (0x00 + 8) [] ∧
      readsNext (reading extreme 0x10) 0x10 [] ∧ readsNext (reading extreme (0x10 + 8)) (0x10 + 8) [] ∧
      readsNext (reading extreme 0x20) 0x20 [] ∧ readsNext (reading extreme (0x20 + 8)) (0x20 + 8) [] ∧
      readsNext (reading extreme 0x30) 0x30 [] ∧ readsNext (reading extreme (0x30 + 8)) (0x30 + 8) [] ∧
      31 < 32 ∧ 7 < 8 := ⟨rfl, rfl, rfl, rfl, rfl, rfl, rfl, rfl, by decide, by decide⟩

theorem witness_StatusWordHasTheListedFields :
    readsNext (reading extreme 0x50) 0x50 [] ∧ writesNext (writing extreme 0x50 0xFFFF#64) 0x50 0xFFFF#64 [] :=
  ⟨rfl, rfl⟩

/-- The four halves; each with a legal word and with the pair 10 in the top position only. -/
theorem witness_HalfWritesStoreOrRefuse :
    (∀ off v, off = 0x00 ∨ off = 0x08 ∨ off = 0x10 ∨ off = 0x18 → writesNext (writing extreme off v) off v []) ∧
    (∀ i, i < 32 → (0xD#64).extractLsb' (2 * i) 2 ≠ 0b10#2) ∧
    (31 < 32 ∧ (0x8000000000000000#64).extractLsb' (2 * 31) 2 = 0b10#2) ∧
    (∀ i, i < 8 → (0xFFFFFFFFFFFF0001#64).extractLsb' (2 * i) 2 ≠ 0b10#2) ∧
    (7 < 8 ∧ (0x8000#64).extractLsb' (2 * 7) 2 = 0b10#2) := by
  refine ⟨fun off v _ => ?_, by decide +kernel, by decide +kernel, by decide +kernel, by decide +kernel⟩
  show [HostEvent.write off 8 v] = [HostEvent.write (0 + off) 8 v]
  rw [Nat.zero_add]

theorem witness_HalfWriteThenReadReturnsTheWord :
    illegalPair 0xC000000000000001#64 32 = false ∧ illegalPair 0xFFFFFFFFFFFFC001#64 8 = false := by decide +kernel

theorem witness_XWriteStoresAnyWord :
    writesNext (writing extreme 0x40 (-1)) 0x40 (-1) [] ∧ readsNext (reading extreme 0x40) 0x40 [] := ⟨rfl, rfl⟩

/-- The first and last offsets of the result halves and of the reserved range. -/
theorem witness_IgnoredWritesChangeNothing :
    writesNext (writing extreme 0x20 5) 0x20 5 [] ∧ writesNext (writing extreme 0x38 5) 0x38 5 [] ∧
    writesNext (writing extreme 0x58 5) 0x58 5 [] ∧ writesNext (writing extreme 0xF8 5) 0xF8 5 [] ∧
    readsNext (reading extreme 0x58) 0x58 [] ∧ readsNext (reading extreme 0xF8) 0xF8 [] :=
  ⟨rfl, rfl, rfl, rfl, rfl, rfl⟩

/-- A write of STATUS, a command that fails while another STICKY bit is set, and an access that raises an error. -/
theorem witness_StickyBitsAreSetAndClearedAsStated :
    writesNext (writing extreme 0x50 0xFF00#64) 0x50 0xFF00#64 [] ∧
    (∃ t, exec .cdec { start "0" "0" 250 with sticky := 0x40#8 } = .next t ∧ decide (t.err ≠ 0#3) = true) ∧
    ((writing extreme 0x48 0#64).inputs = [.write 0x48 8 0#64] ∧ HostEvent.write 0x48 8 0#64 ≠ .reset ∧
      (∀ v, HostEvent.write 0x48 8 0#64 ≠ .write (extreme.config.tdlBase + 0x50) 8 v) ∧
      writes extreme 0x48 0#64 (fun t => decide (t.err ≠ extreme.err ∧ t.err ≠ 0#3)) = true) := by
  refine ⟨rfl, ends_next (by decide +kernel), rfl, by simp, fun v h => ?_, by decide +kernel⟩
  injection h with h
  exact absurd h (by decide)

theorem witness_DecodeOfEncode : (Instr.pack 40).wellFormed = true ∧ (Instr.eachwDiv .neg).wellFormed = true := by decide

theorem witness_EncodeOfDecode : decode 0x5001C#64 = .ok (.pack 40) := rfl

/-- The invariant's premises: after reset, and in a state with an error recorded. -/
theorem witness_StepKeepsInv :
    (writing { extreme with err := 4#3, sticky := 0x50#8 } 0x48 0xB#64).Inv ∧
      writes { extreme with err := 4#3, sticky := 0x50#8 } 0x48 0xB#64 (fun _ => true) = true :=
  ⟨⟨⟨by decide, by decide⟩, ⟨by decide, by decide, by decide⟩, by decide +kernel⟩, by decide +kernel⟩

theorem witness_ErrorsWriteOnlyErrAndSticky :
    (∃ t, exec .div (start "+" "0" 0) = .next t ∧ decide (t.err ≠ 0#3) = true) ∧
    (writesNext (writing extreme 0x48 0x3F#64) 0x48 0x3F#64 [] ∧ decode 0x3F#64 = .error .unassignedOp) ∧
    (writesNext (writing extreme 0x00 0x8000000000000000#64) 0x00 0x8000000000000000#64 [] ∧
      illegalPair 0x8000000000000000#64 (if 0x00 % 16 = 0 then 32 else 8) = true) ∧
    (writesNext (writing extreme 0x18 0x8000#64) 0x18 0x8000#64 [] ∧
      illegalPair 0x8000#64 (if 0x18 % 16 = 0 then 32 else 8) = true) :=
  ⟨ends_next (by decide +kernel), ⟨rfl, rfl⟩, ⟨rfl, by decide +kernel⟩, ⟨rfl, by decide +kernel⟩⟩

theorem witness_OutcomesAreThoseOfTheErrorTable :
    extreme.config.lawful = true ∧
    (writesNext (writing extreme 0x48 0#64) 0x48 0#64 [] ∧ decode 0#64 = .error .unassignedOp) ∧
    (0xF8 % 8 = 0 ∧ writes extreme 0xF8 2#64 (fun _ => true) = true) ∧
    (0x10 % 8 = 0 ∧ writes extreme 0x10 2#64 (fun _ => true) = true) ∧
    (readsNext (reading extreme 0xF8) 0xF8 [] ∧ readBack extreme 0xF8 = some 0#64) :=
  ⟨by decide +kernel, ⟨rfl, rfl⟩, ⟨rfl, by decide +kernel⟩, ⟨rfl, by decide +kernel⟩, ⟨rfl, by decide +kernel⟩⟩

theorem witness_RepeatedCommandLeavesTheSameState :
    writesNext (writingTwice extreme 0xA#64) 0x48 0xA#64 [cmdWrite extreme 0xA#64] := rfl

/-- Two states that agree on A, B and X only, for a digit command; two that agree on R and R2 as well, for a move. -/
theorem witness_CommandsDependOnlyOnTheirOperands :
    (({ extreme with r := extreme.a, ov := true, err := 2#3 } : State).a = extreme.a ∧ isMov .add = false ∧
      (∃ t, exec .add extreme = .next t) ∧
      (∃ t, exec .add { extreme with r := extreme.a, ov := true, err := 2#3 } = .next t)) ∧
    (isMov .movAR2 = true ∧ ({ extreme with ov := true } : State).r = extreme.r ∧
      ({ extreme with ov := true } : State).r2 = extreme.r2 ∧ (∃ t, exec .movAR2 extreme = .next t)) :=
  ⟨⟨rfl, rfl, ends_some (by decide +kernel), ends_some (by decide +kernel)⟩,
    ⟨rfl, rfl, rfl, ends_some (by decide +kernel)⟩⟩

/-- A command that changes A, one that changes B, one that changes R2 and one that changes X. -/
theorem witness_RegistersChangeOnlyByTheirCommands :
    (∃ t, exec .movAR extreme = .next t ∧ decide (t.a ≠ extreme.a) = true) ∧
    (∃ t, exec .movBR2 extreme = .next t ∧ decide (t.b ≠ extreme.b) = true) ∧
    (∃ t, exec .mul extreme = .next t ∧ decide (t.r2 ≠ extreme.r2) = true) ∧
    (∃ t, exec (.pack 40) extreme = .next t ∧ decide (t.x ≠ extreme.x) = true) :=
  ⟨ends_next (by decide +kernel), ends_next (by decide +kernel), ends_next (by decide +kernel),
    ends_next (by decide +kernel)⟩

theorem witness_CarryAndOverflowComeFromTheirCommands :
    extreme.config.lawful = true ∧
    (∃ t, exec .sub extreme = .next t ∧ decide (t.err = 0#3 ∧ t.c ≠ .zero ∧ t.ov = true) = true) ∧
    (∃ t, exec .div (start "+" "0" 0) = .next t ∧ decide (t.err ≠ 0#3) = true) :=
  ⟨by decide +kernel, ends_next (by decide +kernel), ends_next (by decide +kernel)⟩

theorem witness_EarlierErrorsDoNotAffectACommand :
    ∃ t, exec .wdec { start "0" "0" (-1) with err := 4#3, sticky := 0x10#8 } = .next t ∧ decide (t.err = 4#3) = true :=
  ends_next (by decide +kernel)

/-- Both ends of the range. -/
theorem witness_VectorsHoldEachIntegerOnce :
    extreme.a.val = 6078832729528464400 ∧ extreme.b.val = -6078832729528464400 := by decide +kernel

theorem witness_WrapIsCongruentAndExactInRange :
    2 * (6078832729528464400 : Int).natAbs < 3 ^ 40 ∧ ¬ 2 * (6078832729528464401 : Int).natAbs < 3 ^ 40 := by decide

theorem witness_DunLeavesValueAndCarry : extreme.config.lawful = true ∧ 2 < 40 ∧ 39 < 40 := by decide +kernel

/-- A defined entry, the undefined one, and admissible tables. -/
theorem witness_DbinLeavesValueAndCarry :
    (extreme.config.binary .add).at (extreme.a.get 0) (extreme.b.get 0) = some ⟨.zero, .zero⟩ ∧
    ((start "+" "0" 0).config.binary .div).at ((start "+" "0" 0).a.get 0) ((start "+" "0" 0).b.get 0) = none ∧
    extreme.config.lawful = true := by decide +kernel

theorem witness_DigitArithmeticLeavesTheIntegerResult :
    extreme.config.lawful = true ∧ extreme.b.get 0 ≠ .zero := by decide +kernel

theorem witness_DefaultTablesFollowTheirFormulas :
    extreme.config = defaultConfig ∧ extreme.b.get 0 ≠ .zero := by decide +kernel

theorem witness_EachActsOnEveryLane : extreme.config.lawful = true ∧ 39 < 40 := by decide +kernel

/-- Lanes that are all defined, and an undefined one; a non-Zero digit; a `bitor` table whose Pos column is Pos. -/
theorem witness_EachwActsOnEveryLane :
    (∀ i, i < 40 → (extreme.config.binary .div).at (extreme.a.get i) .neg ≠ none) ∧
    (∃ i, i < 40 ∧ (extreme.config.binary .div).at (extreme.a.get i) .zero = none) ∧
    extreme.config.lawful = true ∧ Trit.neg ≠ .zero ∧
    (∀ x, extreme.config.lutBitor.at x .pos = some ⟨.pos, .zero⟩) :=
  ⟨by decide +kernel, ⟨39, by decide, by decide +kernel⟩, by decide +kernel, by decide, fun x => by cases x <;> rfl⟩

/-- Lanes that are all defined, and an undefined one; equal registers; equal tables. -/
theorem witness_ZipActsOnEveryLane :
    (∀ i, i < 40 → (extreme.config.binary .div).at (extreme.a.get i) (extreme.b.get i) ≠ none) ∧
    (∃ i, i < 40 ∧ ((start "+" "0" 0).config.binary .div).at ((start "+" "0" 0).a.get i)
      ((start "+" "0" 0).b.get i) = none) ∧
    extreme.config.lawful = true ∧ (start "+-" "+-" 0).a = (start "+-" "+-" 0).b ∧
    (start "+-" "+-" 0).config.lawful = true ∧ extreme.config.lutK3Equiv = extreme.config.lutMul :=
  ⟨by decide +kernel, ⟨39, by decide, by decide +kernel⟩, by decide +kernel, rfl, by decide +kernel, rfl⟩

theorem witness_LanewiseDivFailsWhole :
    (start "+" "+" 0).config.lawful = true ∧ ∃ i, i < 40 ∧ (start "+" "+" 0).b.get i = .zero :=
  ⟨by decide +kernel, ⟨39, by decide, by decide +kernel⟩⟩

theorem witness_MulKeepsTheExactProduct : extreme.config.lawful = true := by decide +kernel

/-- Admissible tables, and a `zip.div` that runs. -/
theorem witness_DerivedValueForms :
    extreme.config.lawful = true ∧ ∃ t, exec .zipDiv extreme = .next t ∧ decide (t.err = 0#3) = true :=
  ⟨by decide +kernel, ends_next (by decide +kernel)⟩

theorem witness_DivTruncatesTowardZero : extreme.b.val ≠ 0 ∧ (start "+" "0" 0).b.val = 0 := by decide +kernel

/-- Vectors that differ in the top position first, and equal ones. -/
theorem witness_CmpFindsTheFirstDifference :
    (39 < 40 ∧ extreme.a.get 39 ≠ extreme.b.get 39 ∧
      ∀ j, 39 < j → j < 40 → extreme.a.get j = extreme.b.get j) ∧
    (∀ i, i < 40 → (start "-0" "-0" 0).a.get i = (start "-0" "-0" 0).b.get i) :=
  ⟨⟨by decide, by decide +kernel, fun j h k => by omega⟩, fun _ _ => rfl⟩

theorem witness_FromdecConvertsInRange :
    (start "0" "0" 0xABA3A5D6EB700BF0).x.toInt.natAbs ≤ 6078832729528464400 ∧
    6078832729528464400 < (start "0" "0" 0x545C5A29148FF411).x.toInt.natAbs := by decide +kernel

theorem witness_TodecLeavesTheValue :
    (start "0" "0" 0x545C5A29148FF410).x.toInt.natAbs ≤ 6078832729528464400 := by decide +kernel

theorem witness_CdecReadsTheChunkCode :
    (start "0" "0" 242).x.toNat ≤ 242 ∧ 242 < (start "0" "0" 243).x.toNat := by decide +kernel

theorem witness_WdecReadsTheWordCode :
    (start "0" "0" 0xA8B8B452291FE820).x.toNat < 3 ^ 40 ∧ 3 ^ 40 ≤ (start "0" "0" 0xA8B8B452291FE821).x.toNat := by
  decide +kernel

theorem witness_PackStoresTheChunks : 40 ≤ 40 ∧ 7 < 8 ∧ 5 * 7 < 40 ∧ ¬ 5 * 7 < 35 := by decide

/-- `unpack 1` of the code of Pos, of a byte above 242 and of a non-Zero padding slot. -/
theorem witness_UnpackReadsTheChunks :
    (∀ c, 5 * c < 1 → ((0x7A#64).extractLsb' (8 * c) 8).toNat ≤ 242 ∧
        ∀ j, j < 5 → 1 ≤ 5 * c + j → ((0x7A#64).extractLsb' (8 * c) 8).toNat / 3 ^ j % 3 = 1) ∧
    (5 * 0 < 5 ∧ 242 < ((0xF3#64).extractLsb' (8 * 0) 8).toNat) ∧
    (5 * 0 < 1 ∧ 4 < 5 ∧ 1 ≤ 5 * 0 + 4 ∧ ((0#64).extractLsb' (8 * 0) 8).toNat / 3 ^ 4 % 3 ≠ 1) := by
  refine ⟨fun c hc => ?_, by decide, by decide⟩
  obtain rfl : c = 0 := by omega
  decide +kernel

theorem witness_WordCodecRoundTrips : (start "0" "0" 0xA8B8B452291FE820).x.toNat < 3 ^ 40 := by decide +kernel

theorem witness_ChunkCodecRoundTrips : (start "0" "0" 242).x.toNat ≤ 242 := by decide +kernel

theorem witness_WordCodeIsNotTheChunkLayout : (start "0" "0" 0).a = zero40 := by decide +kernel

theorem witness_PackThenUnpackReturnsTheTrits :
    2 ≤ 40 ∧ ∀ i, 2 ≤ i → i < 40 → (start "+-" "0" 0).a.get i = .zero := by
  have h : ∀ i, i < 40 → 2 ≤ i → (start "+-" "0" 0).a.get i = .zero := by decide +kernel
  exact ⟨by decide, fun i h2 h40 => h i h40 h2⟩

end Sys2Proof.Tests
end

section
/-! SUPPORT. The proofs of the statements about the registers and the host's accesses to them (10_state.md), after the
lemmas that they share. -/

namespace Sys2Proof.Machine

/-! ## Reads of the halves -/

theorem loWord_zero40 : loWord zero40 = 0#64 := by decide +kernel

theorem hiWord_zero40 : hiWord zero40 = 0#64 := by decide +kernel

/-- A HI half is a number of 16 bits, so its bits 63:16 are 0 (10_state.md R24). -/
theorem hiWord_reserved (t : TVec) : (hiWord t).extractLsb' 16 48 = 0#48 := by
  have hlt := hiWord_lt t
  apply BitVec.eq_of_toNat_eq
  simp only [hiWord, BitVec.extractLsb'_toNat, BitVec.toNat_ofNat, Nat.shiftRight_eq_div_pow]
  omega

/-- The four vector registers' rows of the window's map (20_memory.md R51). -/
theorem readReg_vectorHalves {s : State} {t : TVec} {off : Nat}
    (h : off = 0x00 ∧ t = s.a ∨ off = 0x10 ∧ t = s.b ∨ off = 0x20 ∧ t = s.r ∨ off = 0x30 ∧ t = s.r2) :
    off ≤ 0x30 ∧ off % 16 = 0 ∧ readReg (windowReg off) s = loWord t ∧ readReg (windowReg (off + 8)) s = hiWord t := by
  rcases h with ⟨rfl, rfl⟩ | ⟨rfl, rfl⟩ | ⟨rfl, rfl⟩ | ⟨rfl, rfl⟩ <;> exact ⟨by decide, by decide, rfl, rfl⟩

/-- `step_read` with the next state written out and the word named. -/
theorem step_read_word {s : State} {rest : List HostEvent} {off : Nat} {w : Word} (ho : off < 256) (ha : off % 8 = 0)
    (hw : readReg (windowReg off) s = w) (h : readsNext s off rest) :
    step s = .next { taken s rest with reply := some w } := by
  have hr : readReg (windowReg off) (s.takeInput rest) = readReg (windowReg off) s := by
    cases windowReg off <;> rfl
  rw [step_read ho ha h, hr, hw]
  rfl

/-! ## Writes of the halves -/

theorem writeHalf_legal {u : TVec} {base n : Nat} {v : Word} {set : TVec → State → State} {s : State}
    (h : illegalPair v n = false) : writeHalf u base n v set s = set (withHalf u base n v) s := by
  simp [writeHalf, h]

theorem writeHalf_illegal {u : TVec} {base n : Nat} {v : Word} {set : TVec → State → State} {s : State}
    (h : illegalPair v n = true) : writeHalf u base n v set s = s.raiseError .codec := by
  simp [writeHalf, h]

/-- The four writable halves: A at offsets below 0x10, B from there on (20_memory.md R51, 10_state.md R23). -/
theorem step_writeHalf {s : State} {v : Word} {rest : List HostEvent} {off base n : Nat}
    (h : ((off = 0x00 ∨ off = 0x10) ∧ base = 0 ∧ n = 32) ∨ ((off = 0x08 ∨ off = 0x18) ∧ base = 32 ∧ n = 8))
    (hw : writesNext s off v rest) :
    step s = .next (writeHalf (if off < 0x10 then s.a else s.b) base n v
      (if off < 0x10 then State.setA else State.setB) (s.takeInput rest)) := by
  rcases h with ⟨rfl | rfl, rfl, rfl⟩ | ⟨rfl | rfl, rfl, rfl⟩ <;>
    exact step_write (by decide) (by decide) hw

/-! ## STATUS -/

/-- The STATUS word bit by bit (10_state.md R27): in each range of bits one field contributes, and the narrower ones have
ended. -/
theorem statusWord_getLsbD (s : State) (i : Nat) :
    (statusWord s).getLsbD i =
      if i < 3 then s.err.getLsbD i else if i < 5 then s.c.pair.getLsbD (i - 3) else if i = 5 then s.ov
      else if 8 ≤ i ∧ i < 16 then s.sticky.getLsbD (i - 8) else false := by
  have herr : 3 ≤ i → s.err.getLsbD i = false := s.err.getLsbD_of_ge i
  have hc : 5 ≤ i → s.c.pair.getLsbD (i - 3) = false := fun h => s.c.pair.getLsbD_of_ge _ (by omega)
  have hsticky : 16 ≤ i → s.sticky.getLsbD (i - 8) = false := fun h => s.sticky.getLsbD_of_ge _ (by omega)
  simp only [statusWord, BitVec.getLsbD_or, BitVec.getLsbD_shiftLeft, BitVec.getLsbD_setWidth, BitVec.getLsbD_ofBool]
  split_ifs <;> grind

theorem statusWord_err (s : State) : (statusWord s).extractLsb' 0 3 = s.err := by
  apply BitVec.eq_of_getLsbD_eq
  intro i hi
  rw [BitVec.getLsbD_extractLsb', statusWord_getLsbD, if_pos (by omega)]
  simp [hi]

theorem statusWord_c (s : State) : (statusWord s).extractLsb' 3 2 = s.c.pair := by
  apply BitVec.eq_of_getLsbD_eq
  intro i hi
  rw [BitVec.getLsbD_extractLsb', statusWord_getLsbD, if_neg (by omega), if_pos (by omega)]
  simp [hi]

theorem statusWord_ov (s : State) : (statusWord s).getLsbD 5 = s.ov := by
  rw [statusWord_getLsbD]
  rfl

theorem statusWord_sticky (s : State) : (statusWord s).extractLsb' 8 8 = s.sticky := by
  apply BitVec.eq_of_getLsbD_eq
  intro i hi
  rw [BitVec.getLsbD_extractLsb', statusWord_getLsbD, if_neg (by omega), if_neg (by omega), if_neg (by omega),
    if_pos (by omega)]
  simp [hi]

/-- Bits 7:6 and 63:16 of STATUS are reserved and read 0 (10_state.md R27). -/
theorem statusWord_reserved (s : State) {start len : Nat} (h : start = 6 ∧ len = 2 ∨ 16 ≤ start) :
    (statusWord s).extractLsb' start len = 0#len := by
  apply BitVec.eq_of_getLsbD_eq
  intro i hi
  rw [BitVec.getLsbD_extractLsb', statusWord_getLsbD, if_neg (by omega), if_neg (by omega), if_neg (by omega),
    if_neg (by omega)]
  simp

/-- A host write of STATUS reaches STICKY only (10_state.md R31). -/
theorem step_writeStatus {s : State} {v : Word} {rest : List HostEvent} (h : writesNext s 0x50 v rest) :
    step s = .next { taken s rest with sticky := s.sticky &&& ~~~(v.extractLsb' 8 8) } :=
  step_write (by decide) (by decide) h

/-! ## CMD writes -/

/-- A CMD write always answers a next state: the refused word's error state, or the end of the word's command, both from
the state in which CMD holds the word (10_state.md R26, 60_exceptions.md R255). -/
theorem writeCmd_answers (w : Word) (s : State) :
    ∃ t, writeCmd w s = .next t ∧ (t = (s.setCmd w).raiseError .illegal ∨ Ends (s.setCmd w) t) := by
  unfold writeCmd runWord
  cases decode w with
  | error e => exact ⟨_, rfl, .inl rfl⟩
  | ok i =>
    obtain ⟨t, ht, he⟩ := exec_ends i (s.setCmd w)
    exact ⟨t, ht, .inr he⟩

theorem writeCmd_of_decode {w : Word} {i : Instr} (h : decode w = .ok i) (s : State) :
    writeCmd w s = exec i (s.setCmd w) := by
  simp [writeCmd, runWord, h]

theorem Ends.cmd_eq {s t : State} (h : Ends s t) : t.cmd = s.cmd := by
  cases h <;> rfl

theorem step_writeCmd {s : State} {w : Word} {rest : List HostEvent} (h : writesNext s 0x48 w rest) :
    step s = writeCmd w (s.takeInput rest) :=
  step_write (by decide) (by decide) h

/-! ## What an access does to ERR and STICKY -/

/-- An error that some rule raises has been recorded: its code stands in ERR and its STICKY bit is added
(60_exceptions.md R256); nothing raises ParseError (R252). -/
def RecordsError (s t : State) : Prop :=
  ∃ e : ErrorClass, e ≠ .parse ∧ t.err = BitVec.ofNat 3 e.code ∧ t.sticky = s.sticky ||| (1#8 <<< e.code)

theorem recordsError_raiseError {s u : State} (hu : u.sticky = s.sticky) {e : ErrorClass} (he : e ≠ .parse) :
    RecordsError s (u.raiseError e) :=
  ⟨e, he, rfl, by rw [State.raiseError_sticky, hu]⟩

/-- A command succeeds, with ERR 0 and STICKY kept, or records an error (10_state.md R28, R31). -/
theorem Ends.succeeds_or_records {s t : State} (h : Ends s t) :
    t.err = 0#3 ∧ t.sticky = s.sticky ∨ RecordsError s t := by
  cases h with
  | error e he => exact .inr (recordsError_raiseError rfl he.1)
  | writesR | writesR2 | writesX | writesA | writesB => exact .inl ⟨rfl, rfl⟩

/-- The codes of the errors that are raised are 2 to 6, and the code is the position of the STICKY bit. -/
theorem ErrorClass.code_bits {e : ErrorClass} (he : e ≠ .parse) :
    2 ≤ e.code ∧ e.code ≤ 6 ∧ (BitVec.ofNat 3 e.code).toNat = e.code := by
  cases e with
  | parse => exact absurd rfl he
  | arithmetic | domain | codec | range | illegal => decide

/-- The STICKY bits after an error: those before it, and the one that ERR names. -/
theorem RecordsError.sticky_iff {s t : State} (h : RecordsError s t) {j : Nat} (hj : j < 8) :
    t.sticky.getLsbD j = true ↔ s.sticky.getLsbD j = true ∨ j = t.err.toNat ∧ 2 ≤ j ∧ j ≤ 6 := by
  obtain ⟨e, he, herr, hsticky⟩ := h
  obtain ⟨h2, h6, hcode⟩ := ErrorClass.code_bits he
  have hbit : (1#8 <<< e.code).getLsbD j = true ↔ j = e.code := by
    rw [BitVec.getLsbD_shiftLeft, BitVec.getLsbD_one]
    simp [hj]
    omega
  rw [hsticky, herr, hcode, BitVec.getLsbD_or, Bool.or_eq_true, hbit]
  constructor
  · rintro (h | rfl)
    · exact .inl h
    · exact .inr ⟨rfl, h2, h6⟩
  · rintro (h | ⟨h, -⟩)
    · exact .inl h
    · exact .inr h

theorem RecordsError.sticky_err {s t : State} (h : RecordsError s t) : t.sticky.getLsbD t.err.toNat = true := by
  have hlt : t.err.toNat < 8 := t.err.isLt
  have ⟨e, he, herr, _⟩ := h
  obtain ⟨h2, h6, hcode⟩ := ErrorClass.code_bits he
  rw [h.sticky_iff hlt, herr, hcode]
  exact .inr ⟨rfl, h2, h6⟩

/-- A command that ends with ERR non-zero has recorded the error. -/
theorem Ends.records_of_err {s t : State} (h : Ends s t) (he : t.err ≠ 0#3) : RecordsError s t :=
  h.succeeds_or_records.resolve_left fun hs => he hs.1

/-- STICKY is kept, and ERR is kept or cleared, or an error is recorded: what every access does that is neither reset nor
a write of STATUS. -/
def KeepsOrRecords (s t : State) : Prop :=
  t.sticky = s.sticky ∧ (t.err = s.err ∨ t.err = 0#3) ∨ RecordsError s t

theorem writeReg_keepsOrRecords {g : WindowReg} {v : Word} {s t : State} (hg : g ≠ .status)
    (h : writeReg g v s = .next t) : KeepsOrRecords s t := by
  have half : ∀ (u : TVec) (base n : Nat) (set : TVec → State → State),
      (∀ u, (set u s).sticky = s.sticky ∧ (set u s).err = s.err) →
      Host.Outcome.next (writeHalf u base n v set s) = (.next t : Answer) → KeepsOrRecords s t := by
    intro u base n set hset hw
    rcases writeHalf_cases u base n v set s with hc | hc <;> rw [hc] at hw <;> cases hw
    · exact .inr (recordsError_raiseError rfl (by decide))
    · exact .inl ⟨(hset _).1, .inl (hset _).2⟩
  cases g with
  | aLo | aHi | bLo | bHi => exact half _ _ _ _ (fun _ => ⟨rfl, rfl⟩) h
  | rLo | rHi | r2Lo | r2Hi | x | reserved => cases h; exact .inl ⟨rfl, .inl rfl⟩
  | status => exact absurd rfl hg
  | cmd =>
    obtain ⟨u, hu, hcase⟩ := writeCmd_answers v s
    obtain rfl : u = t := by simpa [writeReg, hu] using h
    rcases hcase with rfl | hends
    · exact .inr (recordsError_raiseError rfl (by decide))
    · rcases hends.succeeds_or_records with ⟨herr, hsticky⟩ | hrec
      · exact .inl ⟨hsticky, .inr herr⟩
      · exact .inr hrec

/-- STATUS stands at offset 0x50 only (20_memory.md R51). -/
theorem windowReg_eq_status {off : Nat} (h : windowReg off = .status) : off = 0x50 := by
  unfold windowReg at h
  split at h <;> cases h
  rfl

/-- An access that answers a next state is 8 bytes wide and was served at the register of its offset
(20_memory.md R50, R53). -/
theorem serveAccess_next_offset {addr width : Nat} {use : WindowReg → State → Answer} {s t : State}
    (h : serveAccess addr width use s = .next t) :
    ∃ off, addr = s.config.tdlBase + off ∧ width = 8 ∧ use (windowReg off) s = .next t := by
  unfold serveAccess at h
  split at h
  · cases h
  · split at h
    · cases h
    · split at h
      · cases h
      · exact ⟨addr - s.config.tdlBase, by omega, by omega, h⟩

/-- An access other than reset and a write of STATUS keeps STICKY or records an error (10_state.md R31). -/
theorem step_keepsOrRecords {s t : State} {e : HostEvent} {rest : List HostEvent} (hi : s.inputs = e :: rest)
    (hreset : e ≠ .reset) (hstatus : ∀ v, e ≠ .write (s.config.tdlBase + 0x50) 8 v) (h : step s = .next t) :
    KeepsOrRecords s t := by
  rw [step_event hi] at h
  cases e with
  | reset => exact absurd rfl hreset
  | read addr width =>
    obtain ⟨off, -, -, hread⟩ := serveAccess_next_offset h
    cases hread
    exact .inl ⟨rfl, .inl rfl⟩
  | write addr width v =>
    obtain ⟨off, rfl, rfl, hwrite⟩ := serveAccess_next_offset (use := fun g => writeReg g v) h
    have hg : windowReg off ≠ .status := fun hs => hstatus v (by rw [windowReg_eq_status hs]; rfl)
    exact writeReg_keepsOrRecords (s := s.takeInput rest) hg hwrite

/-! ## The statements -/

/-- Settles O8: a read returns the half's word, whose pairs are the register's trits. -/
theorem halvesHoldTheTritPairs : Obligations.HalvesHoldTheTritPairs := by
  intro s rest t off h
  obtain ⟨ho, ha, hlo, hhi⟩ := readReg_vectorHalves h
  refine ⟨fun hr => ⟨_, step_read_word (by omega) (by omega) hlo hr, fun i hi => pairAt_loWord t hi⟩,
    fun hr => ⟨_, step_read_word (by omega) (by omega) hhi hr, fun i hi => pairAt_hiWord t hi, hiWord_reserved t⟩⟩

/-- Settles O9: the write's outcome is `writeHalf`'s, by whether a used pair is the pair 10. -/
theorem halfWritesStoreOrRefuse : Obligations.HalfWritesStoreOrRefuse := by
  intro s v rest off base n h hw
  have hstep := step_writeHalf h hw
  refine ⟨fun hlegal => ⟨withHalf (if off < 0x10 then s.a else s.b) base n v, ?_, fun i hi => ?_, fun j hj ho => ?_⟩,
    fun hillegal => ?_⟩
  · rw [hstep, writeHalf_legal (not_illegalPair_iff.2 hlegal)]
    split <;> rfl
  · rw [withHalf_get_inside hi (by omega)]
    exact pair_pairTrit (hlegal i hi)
  · exact withHalf_get_outside hj ho
  · rw [hstep, writeHalf_illegal (illegalPair_iff.2 hillegal)]
    rfl

/-- Settles O13: the fields of the STATUS word, and a write of STATUS, which reaches STICKY only. -/
theorem statusWordHasTheListedFields : Obligations.StatusWordHasTheListedFields := by
  refine ⟨fun s rest h => ⟨statusWord s, step_read_word (by decide) (by decide) rfl h, statusWord_err s, statusWord_c s,
    statusWord_ov s, statusWord_reserved s (.inl ⟨rfl, rfl⟩), statusWord_sticky s,
    statusWord_reserved s (.inr (by decide))⟩, fun s v rest h => ⟨_, step_writeStatus h⟩, by decide⟩

/-- Settles O14: a write of STATUS clears its ones, and every other access keeps STICKY or records an error. -/
theorem stickyBitsAreSetAndClearedAsStated : Obligations.StickyBitsAreSetAndClearedAsStated := by
  refine ⟨fun s v rest h => ⟨_, step_writeStatus h, fun j hj => ?_⟩,
    fun i s t h herr => ((exec_next h).records_of_err herr).sticky_err, ?_⟩
  · simp [hj]
  · intro s t e rest hi hreset hstatus h
    rcases step_keepsOrRecords hi hreset hstatus h with ⟨hsticky, herr⟩ | hrec
    · refine ⟨fun hne h0 => (herr.elim hne h0).elim, fun j _ => ?_⟩
      rw [hsticky]
      exact ⟨id, .inl⟩
    · refine ⟨fun _ _ => hrec.sticky_err, fun j hj => ?_⟩
      rw [hrec.sticky_iff hj]
      exact ⟨.inl, id⟩

/-- Settles O1: the reset state's fields, and through them every register of the window. -/
theorem resetLeavesEveryRegisterZero : Obligations.ResetLeavesEveryRegisterZero := by
  refine ⟨rfl, rfl, rfl, rfl, rfl, rfl, rfl, rfl, rfl, rfl, fun g => ?_⟩
  cases g with
  | aLo | bLo | rLo | r2Lo => exact loWord_zero40
  | aHi | bHi | rHi | r2Hi => exact hiWord_zero40
  | x | cmd | reserved => rfl
  | status => decide

/-- Settles O3: a CMD write is `writeCmd`, which always answers and leaves CMD as it was written. -/
theorem cmdWriteRunsTheDecodedCommand : Obligations.CmdWriteRunsTheDecodedCommand := by
  refine ⟨fun s w rest i h hd => ?_, fun s w rest h => ?_, fun s rest h => ?_⟩
  · rw [step_writeCmd h, writeCmd_of_decode hd]
    rfl
  · obtain ⟨t, ht, hcase⟩ := writeCmd_answers w (s.takeInput rest)
    refine ⟨t, (step_writeCmd h).trans ht, ?_⟩
    rcases hcase with rfl | hends
    · rfl
    · exact hends.cmd_eq
  · exact step_read_word (by decide) (by decide) rfl h

end Sys2Proof.Machine
end

section
/-! SUPPORT. The proofs of the statements about the register window (20_memory.md), after the lemmas that they share. -/

namespace Sys2Proof.Machine

/-! ## Which accesses have a step -/

/-- A host write of any register answers a next state (20_memory.md R57). -/
theorem writeReg_answers (g : WindowReg) (v : Word) (s : State) : ∃ t, writeReg g v s = .next t := by
  cases g with
  | cmd =>
    obtain ⟨t, ht, -⟩ := writeCmd_answers v s
    exact ⟨t, ht⟩
  | aLo | aHi | bLo | bHi | rLo | rHi | r2Lo | r2Hi | x | status | reserved => exact ⟨_, rfl⟩

/-- An access to the window whose service answers at every register has a step exactly when it is admitted
(20_memory.md R53). -/
theorem serveAccess_answers_or_stuck {s : State} {off width : Nat} {use : WindowReg → State → Answer}
    (ho : off < 256) (huse : ∀ g, ∃ t, use g s = .next t) :
    (width = 8 ∧ off % 8 = 0 → ∃ t, serveAccess (s.config.tdlBase + off) width use s = .next t) ∧
    (¬ (width = 8 ∧ off % 8 = 0) → ∃ f, serveAccess (s.config.tdlBase + off) width use s = .fault f) := by
  refine ⟨?_, serveAccess_stuck⟩
  rintro ⟨rfl, ha⟩
  rw [serveAccess_admitted ho ha]
  exact huse _

/-! ## Ignored writes and the reserved offsets -/

/-- The offsets from 0x58 on are reserved (20_memory.md R51). -/
theorem windowReg_reserved {off : Nat} (h : 0x58 ≤ off) : windowReg off = .reserved := by
  unfold windowReg
  split
  case h_12 => rfl
  all_goals omega

/-- A write of a result half (10_state.md R22) or of a reserved offset (20_memory.md R54) is ignored. -/
theorem writeReg_ignored {off : Nat} (ha : off % 8 = 0) (h : (0x20 ≤ off ∧ off ≤ 0x38) ∨ 0x58 ≤ off) (v : Word)
    (s : State) : writeReg (windowReg off) v s = .next s := by
  rcases h with ⟨hlo, hhi⟩ | hres
  · obtain rfl | rfl | rfl | rfl : off = 0x20 ∨ off = 0x28 ∨ off = 0x30 ∨ off = 0x38 := by omega
    all_goals rfl
  · rw [windowReg_reserved hres]
    rfl

/-! ## The statements -/

/-- Settles O5: a read and a write of a register both answer, so only the access's width and alignment decide. -/
theorem onlyAlignedEightByteAccessesHaveAStep : Obligations.OnlyAlignedEightByteAccessesHaveAStep := by
  intro s off width v rest e ho he hi
  rw [step_event hi]
  rcases he with rfl | rfl
  · exact serveAccess_answers_or_stuck (s := s.takeInput rest) ho fun g => ⟨_, rfl⟩
  · exact serveAccess_answers_or_stuck (s := s.takeInput rest) ho fun g => writeReg_answers g v _

/-- Settles O12: the map's rows for these offsets ignore writes, and the reserved row reads 0. -/
theorem ignoredWritesChangeNothing : Obligations.IgnoredWritesChangeNothing := by
  intro s off v rest ho ha
  refine ⟨fun h hw => (step_write ho ha hw).trans (writeReg_ignored ha h v _), fun h hr => ?_⟩
  have hread : readReg (windowReg off) s = 0#64 := by rw [windowReg_reserved h]; rfl
  exact step_read_word ho ha hread hr

end Sys2Proof.Machine
end

section
/-! SUPPORT. The proofs of the statements about the scalar digit commands (40_digit_lut.md), after the lemmas that they
share: the two-digit result as a vector, when a two-digit result has a carry, and what the commands answer. -/

namespace Sys2Proof

/-! ## The two-digit result in R -/

@[simp] theorem digitsVec_get_zero (d : Digits) : (digitsVec d).get 0 = d.value := by
  simp [digitsVec]

@[simp] theorem digitsVec_get_one (d : Digits) : (digitsVec d).get 1 = d.carry := by
  simp [digitsVec]

theorem digitsVec_get_of_two_le (d : Digits) {i : Nat} (h₂ : 2 ≤ i) (h₄₀ : i < 40) : (digitsVec d).get i = .zero := by
  have h₀ : i ≠ 0 := by omega
  have h₁ : i ≠ 1 := by omega
  simp [digitsVec, h₄₀, h₀, h₁]

/-- Only trits 0 and 1 add to the value of a two-digit result (40_digit_lut.md R100). -/
theorem digitsVec_val (d : Digits) : (digitsVec d).val = d.value.toInt + 3 * d.carry.toInt := by
  have hrest : ∀ i ∈ Finset.range 38, ((digitsVec d).get (i + 2)).toInt * 3 ^ (i + 2) = 0 := by
    intro i hi
    have h38 := Finset.mem_range.1 hi
    rw [digitsVec_get_of_two_le d (by omega) (by omega)]
    exact zero_mul _
  rw [TVec.val_eq_sum, Finset.sum_range_succ', Finset.sum_range_succ', Finset.sum_eq_zero hrest]
  simp [mul_comm, add_comm]

/-! ## When a two-digit result has a carry -/

theorem Trit.ne_zero_iff (t : Trit) : t ≠ .zero ↔ t.toInt ≠ 0 := by cases t <;> decide

/-- The value digit alone reaches -1, 0 and 1, so the carry is non-Zero exactly beyond them (40_digit_lut.md R103). -/
theorem Digits.carry_ne_zero_iff {d : Digits} {n : Int} (h : d.value.toInt + 3 * d.carry.toInt = n) :
    d.carry ≠ .zero ↔ n ≤ -2 ∨ 2 ≤ n := by
  have hv := d.value.toInt_bounds
  have hc := d.carry.toInt_bounds
  rw [Trit.ne_zero_iff]
  omega

section
variable {c : Config} (h : c.lawful = true)
include h

/-- Under admissible tables the unary operations carry at two entries only (40_digit_lut.md R100). -/
theorem lawful_unary_carry_iff (o : UnOp) (a : Trit) :
    ((c.unary o).at a).carry ≠ .zero ↔ o = .inc ∧ a = .pos ∨ o = .dec ∧ a = .neg := by
  by_cases hi : o = .inc
  · subst hi
    refine (Digits.carry_ne_zero_iff (lawful_inc h a)).trans ?_
    cases a <;> decide
  by_cases hd : o = .dec
  · subst hd
    refine (Digits.carry_ne_zero_iff (lawful_dec h a)).trans ?_
    cases a <;> decide
  simp [lawful_unary_carry h hi hd, hi, hd]

/-- Under admissible tables the binary operations carry at four entries only (40_digit_lut.md R101). -/
theorem lawful_binary_carry_iff {o : BinOp} {a b : Trit} {d : Digits} (hd : (c.binary o).at a b = some d) :
    d.carry ≠ .zero ↔ o = .add ∧ (a = .pos ∧ b = .pos ∨ a = .neg ∧ b = .neg) ∨
      o = .sub ∧ (a = .pos ∧ b = .neg ∨ a = .neg ∧ b = .pos) := by
  obtain ⟨⟨e, he, hadd⟩, ⟨f, hf, hsub⟩, -⟩ := lawful_arith h a b
  by_cases ha : o = .add
  · subst ha
    obtain rfl : e = d := Option.some.inj (he.symm.trans hd)
    refine (Digits.carry_ne_zero_iff hadd).trans ?_
    cases a <;> cases b <;> decide
  by_cases hs : o = .sub
  · subst hs
    obtain rfl : f = d := Option.some.inj (hf.symm.trans hd)
    refine (Digits.carry_ne_zero_iff hsub).trans ?_
    cases a <;> cases b <;> decide
  simp [lawful_binary_carry h ha hs hd, ha, hs]

end

end Sys2Proof

namespace Sys2Proof.Machine

/-! ## What the scalar digit commands answer -/

theorem exec_dun_afterR (o : UnOp) (s : State) :
    exec (dunInstr o) s = .next (afterR s (digitsVec ((s.config.unary o).at (s.a.get 0)))
      ((s.config.unary o).at (s.a.get 0)).carry false) :=
  exec_dun o s

theorem exec_dbin_defined {o : BinOp} {s : State} {d : Digits}
    (h : (s.config.binary o).at (s.a.get 0) (s.b.get 0) = some d) :
    exec (dbinInstr o) s = .next (afterR s (digitsVec d) d.carry false) := by
  rw [exec_dbin, scalarBinary, h]
  rfl

theorem exec_dbin_undefined {o : BinOp} {s : State} (h : (s.config.binary o).at (s.a.get 0) (s.b.get 0) = none) :
    exec (dbinInstr o) s = .next (afterError s 3) := by
  rw [exec_dbin, scalarBinary, h]
  rfl

/-! ## The statements -/

/-- Settles O30: R is the two-digit vector of the table's entry for A[0]. -/
theorem dunLeavesValueAndCarry : Obligations.DunLeavesValueAndCarry := by
  intro o s
  refine ⟨_, exec_dun_afterR o s, rfl, digitsVec_get_zero _, digitsVec_get_one _,
    fun i h₂ h₄₀ => digitsVec_get_of_two_le _ h₂ h₄₀, ?_, fun hl => lawful_unary_carry_iff hl o (s.a.get 0)⟩
  simp [afterR, digitsVec_val]

/-- Settles O31: by whether the table has an entry for A[0] and B[0]. -/
theorem dbinLeavesValueAndCarry : Obligations.DbinLeavesValueAndCarry := by
  intro o s
  refine ⟨fun d hd => ⟨⟨_, exec_dbin_defined hd, rfl, digitsVec_get_zero d, digitsVec_get_one d,
    fun i h₂ h₄₀ => digitsVec_get_of_two_le d h₂ h₄₀⟩, fun hl => lawful_binary_carry_iff hl hd⟩,
    exec_dbin_undefined, fun hl => lawful_binary_undefined hl o _ _⟩

end Sys2Proof.Machine
end

section
/-! SUPPORT. The proofs of the statements about the lanewise commands (41_lanewise.md), after the lemmas that they share:
the value of a vector scaled lane by lane, the value digits of the arithmetic tables, and what the lanewise operations
answer. -/

namespace Sys2Proof

/-! ## Values, lane by lane -/

/-- A factor common to all lanes is a factor of the value (00_scope.md R5). -/
theorem TVec.val_eq_mul {t u : TVec} {k : Int} (h : ∀ i, i < 40 → (t.get i).toInt = k * (u.get i).toInt) :
    t.val = k * u.val := by
  rw [TVec.val_eq_sum, TVec.val_eq_sum, Finset.mul_sum]
  refine Finset.sum_congr rfl fun i hi => ?_
  rw [h i (Finset.mem_range.1 hi), mul_assoc]

/-! ## The value digits of admissible tables -/

section
variable {c : Config} (h : c.lawful = true)
include h

/-- Without a carry, the value digit of `mul` is the whole product (40_digit_lut.md R102, R132). -/
theorem lawful_mul_value {a b : Trit} {d : Digits} (hd : c.lutMul.at a b = some d) :
    d.value.toInt = a.toInt * b.toInt := by
  obtain ⟨-, -, ⟨e, he, hmul⟩, -⟩ := lawful_arith h a b
  obtain rfl : e = d := Option.some.inj (he.symm.trans hd)
  have hc : e.carry = .zero := lawful_binary_carry h (o := .mul) (by decide) (by decide) hd
  simpa [hc, Trit.toInt] using hmul

/-- Without a carry, the value digit of a defined `div` is the whole quotient, which is the product: a non-Zero digit is
its own reciprocal (40_digit_lut.md R102, R133). -/
theorem lawful_div_value {a b : Trit} {d : Digits} (hd : c.lutDiv.at a b = some d) :
    d.value.toInt = a.toInt * b.toInt := by
  obtain ⟨-, -, -, hdiv⟩ := lawful_arith h a b
  have hc : d.carry = .zero := lawful_binary_carry h (o := .div) (by decide) (by decide) hd
  simpa [hc, Trit.toInt] using hdiv d hd

/-- A trit minus itself keeps no value digit (40_digit_lut.md R103). -/
theorem lawful_sub_self_value {a : Trit} {d : Digits} (hd : c.lutSub.at a a = some d) : d.value = .zero := by
  obtain ⟨-, ⟨e, he, hsub⟩, -, -⟩ := lawful_arith h a a
  obtain rfl : e = d := Option.some.inj (he.symm.trans hd)
  have hb := e.value.toInt_bounds
  refine Trit.toInt_injective ?_
  change e.value.toInt = 0
  omega

/-- Some lane is undefined exactly for `div` with a Zero right operand in some lane (41_lanewise.md R155). -/
theorem lawful_lane_undefined_iff (o : BinOp) (left right : Nat → Trit) :
    (∃ i, i < 40 ∧ (c.binary o).at (left i) (right i) = none) ↔ o = .div ∧ ∃ i, i < 40 ∧ right i = .zero := by
  simp only [lawful_binary_undefined h]
  exact ⟨fun ⟨i, hi, ho, hz⟩ => ⟨ho, i, hi, hz⟩, fun ⟨ho, i, hi, hz⟩ => ⟨i, hi, ho, hz⟩⟩

/-- An operation other than `div` is defined in every lane (40_digit_lut.md R102). -/
theorem lawful_binary_defined {o : BinOp} (ho : o ≠ .div) (a b : Trit) : (c.binary o).at a b ≠ none :=
  fun hn => ho ((lawful_binary_undefined h o a b).1 hn).1

/-- `div` by a non-Zero digit is defined (40_digit_lut.md R133). -/
theorem lawful_div_defined (a : Trit) {b : Trit} (hb : b ≠ .zero) : (c.binary .div).at a b ≠ none :=
  fun hn => hb ((lawful_binary_undefined h .div a b).1 hn).2

end

end Sys2Proof

namespace Sys2Proof.Machine

/-! ## What the lanewise operations answer -/

theorem someLaneUndefined_iff (t : BinaryTable) (left : TVec) (right : Nat → Trit) :
    someLaneUndefined t left right = true ↔ ∃ i, i < 40 ∧ t.at (left.get i) (right i) = none := by
  simp [someLaneUndefined]

theorem laneValue_of_some {t : BinaryTable} {x y : Trit} {d : Digits} (h : t.at x y = some d) :
    laneValue t x y = d.value := by
  rw [laneValue, h]

theorem lanesBinary_undefined {t : BinaryTable} {right : Nat → Trit} {s : State}
    (h : ∃ i, i < 40 ∧ t.at (s.a.get i) (right i) = none) : lanesBinary t right s = .next (afterError s 3) := by
  rw [lanesBinary, if_pos ((someLaneUndefined_iff t s.a right).2 h)]
  rfl

/-- What a lanewise command leaves when every lane has an entry: only R, C, OV and ERR written, and each lane of R the
value digit of its entry (41_lanewise.md R151, R152). -/
def LeavesLaneValues (t : BinaryTable) (right : Nat → Trit) (s u : State) : Prop :=
  u = afterR s u.r .zero false ∧ ∀ i, i < 40 → ∃ e, t.at (s.a.get i) (right i) = some e ∧ u.r.get i = e.value

theorem lanesBinary_defined {t : BinaryTable} {right : Nat → Trit} {s : State}
    (h : ∀ i, i < 40 → t.at (s.a.get i) (right i) ≠ none) :
    ∃ u, lanesBinary t right s = .next u ∧ LeavesLaneValues t right s u := by
  have hn : ¬ someLaneUndefined t s.a right = true := by
    rw [someLaneUndefined_iff]
    rintro ⟨i, hi, hnone⟩
    exact h i hi hnone
  refine ⟨_, by rw [lanesBinary, if_neg hn]; rfl, rfl, fun i hi => ?_⟩
  obtain ⟨e, he⟩ := Option.ne_none_iff_exists'.1 (h i hi)
  exact ⟨e, he, (TVec.get_ofFn _ hi).trans (laneValue_of_some he)⟩

section
variable {o : BinOp} {d : Trit} {s : State}

theorem exec_eachw_defined (h : ∀ i, i < 40 → (s.config.binary o).at (s.a.get i) d ≠ none) :
    ∃ u, exec (eachwInstr d o) s = .next u ∧ LeavesLaneValues (s.config.binary o) (fun _ => d) s u := by
  rw [exec_eachw]
  exact lanesBinary_defined h

theorem exec_eachw_undefined (h : ∃ i, i < 40 ∧ (s.config.binary o).at (s.a.get i) d = none) :
    exec (eachwInstr d o) s = .next (afterError s 3) := by
  rw [exec_eachw]
  exact lanesBinary_undefined h

theorem exec_zip_defined (h : ∀ i, i < 40 → (s.config.binary o).at (s.a.get i) (s.b.get i) ≠ none) :
    ∃ u, exec (zipInstr o) s = .next u ∧ LeavesLaneValues (s.config.binary o) s.b.get s u := by
  rw [exec_zip]
  exact lanesBinary_defined h

theorem exec_zip_undefined (h : ∃ i, i < 40 ∧ (s.config.binary o).at (s.a.get i) (s.b.get i) = none) :
    exec (zipInstr o) s = .next (afterError s 3) := by
  rw [exec_zip]
  exact lanesBinary_undefined h

end

/-- Where the value digit of every entry for `d` is `d` times the left operand, the command multiplies the value of A by
`d` (41_lanewise.md R151). -/
theorem LeavesLaneValues.val_eq_mul {t : BinaryTable} {d : Trit} {s u : State}
    (hu : LeavesLaneValues t (fun _ => d) s u)
    (hv : ∀ {a : Trit} {e : Digits}, t.at a d = some e → e.value.toInt = a.toInt * d.toInt) :
    u.r.val = d.toInt * s.a.val := by
  refine TVec.val_eq_mul fun i hi => ?_
  obtain ⟨e, he, hr⟩ := hu.2 i hi
  rw [hr, hv he, mul_comm]

/-! ## The statements -/

/-- Settles O34: lane by lane from the table; negation scales every lane by -1. -/
theorem eachActsOnEveryLane : Obligations.EachActsOnEveryLane := by
  intro o s
  have hlane : ∀ i, i < 40 → (TVec.ofFn fun i => ((s.config.unary o).at (s.a.get i)).value).get i =
      ((s.config.unary o).at (s.a.get i)).value := fun i hi => TVec.get_ofFn _ hi
  refine ⟨afterR s _ .zero false, exec_each o s, rfl, hlane, fun hl ho => ?_⟩
  subst ho
  rw [← neg_one_mul]
  refine TVec.val_eq_mul fun i hi => ?_
  rw [neg_one_mul]
  exact (congrArg Trit.toInt (hlane i hi)).trans (lawful_negation hl (s.a.get i))

/-- Settles O35: by whether every lane of A has an entry with `d`; the values by scaling every lane by `d`. -/
theorem eachwActsOnEveryLane : Obligations.EachwActsOnEveryLane := by
  refine ⟨fun o d s => ⟨exec_eachw_defined, exec_eachw_undefined, fun hl => ?_⟩,
    fun d s hl => ⟨?_, fun hd => ?_⟩, fun s hp => ?_⟩
  · rw [lawful_lane_undefined_iff hl o s.a.get fun _ => d]
    exact and_congr_right fun _ => ⟨fun ⟨_, _, hz⟩ => hz, fun hz => ⟨0, by decide, hz⟩⟩
  · obtain ⟨u, hu, hlanes⟩ := exec_eachw_defined (o := .mul) fun i _ =>
      lawful_binary_defined hl (by decide) (s.a.get i) d
    exact ⟨u, hu, hlanes.val_eq_mul (lawful_mul_value hl)⟩
  · obtain ⟨u, hu, hlanes⟩ := exec_eachw_defined (o := .div) fun i _ => lawful_div_defined hl (s.a.get i) hd
    exact ⟨u, hu, hlanes.val_eq_mul (lawful_div_value hl)⟩
  · obtain ⟨u, hu, -, hlanes⟩ := exec_eachw_defined (o := .bitor) fun i _ =>
      Option.ne_none_iff_exists'.2 ⟨_, hp (s.a.get i)⟩
    refine ⟨u, hu, fun i hi => ?_⟩
    obtain ⟨e, he, hr⟩ := hlanes i hi
    obtain rfl := Option.some.inj ((hp _).symm.trans he)
    exact hr

/-- Settles O36: by whether every pair of lanes has an entry; equal registers leave no value digit in any lane of `sub`. -/
theorem zipActsOnEveryLane : Obligations.ZipActsOnEveryLane := by
  refine ⟨fun o s => ⟨exec_zip_defined, exec_zip_undefined,
      fun hl => lawful_lane_undefined_iff hl o s.a.get s.b.get⟩,
    fun s hl hab => ?_, fun s ht => ?_, rfl⟩
  · obtain ⟨u, hu, -, hlanes⟩ := exec_zip_defined (o := .sub) fun i _ =>
      lawful_binary_defined hl (by decide) (s.a.get i) (s.b.get i)
    refine ⟨u, hu, TVec.eq_of_get fun i hi => ?_⟩
    obtain ⟨e, he, hr⟩ := hlanes i hi
    rw [← hab] at he
    rw [hr, lawful_sub_self_value hl he, TVec.get_zero40]
  · calc exec .zipK3Equiv s
        = lanesBinary s.config.lutK3Equiv s.b.get s := exec_zip .k3Equiv s
      _ = lanesBinary s.config.lutMul s.b.get s := by rw [ht]
      _ = exec .zipMul s := (exec_zip .mul s).symm

/-- Settles O37: a Zero right operand leaves its lane of `div` undefined. -/
theorem lanewiseDivFailsWhole : Obligations.LanewiseDivFailsWhole := by
  refine fun s hl => ⟨exec_eachw_undefined (o := .div) ?_, fun h => exec_zip_undefined (o := .div) ?_⟩
  · exact (lawful_lane_undefined_iff hl .div s.a.get fun _ => .zero).2 ⟨rfl, 0, by decide, rfl⟩
  · exact (lawful_lane_undefined_iff hl .div s.a.get s.b.get).2 ⟨rfl, h⟩

end Sys2Proof.Machine
end

section
/-! SUPPORT. The proofs of the statements about the integer commands (42_arith.md), after the lemmas that they share:
the parts of a vector and their values, the sweep of `add` and `sub` digit by digit, the quotient and remainder of
`div`, the scan of `cmp`, and the dropped digits of `shl`. -/

namespace Sys2Proof

/-! ## Parts of a vector -/

/-- A vector from its top digit down, split at position `i`. -/
theorem TVec.reverse_digits_eq (t : TVec) {i : Nat} (hi : i < 40) :
    t.digits.reverse = (t.digits.drop (i + 1)).reverse ++ t.get i :: (t.digits.take i).reverse := by
  have hsplit : t.digits.take i ++ t.get i :: t.digits.drop (i + 1) = t.digits := by
    rw [t.get_eq_getElem hi, List.cons_getElem_drop_succ, List.take_append_drop]
  conv_lhs => rw [← hsplit]
  simp

theorem TVec.drop_digits_congr {t u : TVec} {n : Nat} (h : ∀ j, n ≤ j → j < 40 → t.get j = u.get j) :
    t.digits.drop n = u.digits.drop n := by
  refine List.ext_getElem (by simp) fun p hp _ => ?_
  have hp40 : n + p < 40 := by simp at hp; omega
  rw [List.getElem_drop, List.getElem_drop, ← t.get_eq_getElem hp40, ← u.get_eq_getElem hp40]
  exact h _ (Nat.le_add_right n p) hp40

theorem TVec.forall_mem_drop_digits_iff (t : TVec) (n : Nat) :
    (∀ d ∈ t.digits.drop n, d = .zero) ↔ ∀ j, n ≤ j → j < 40 → t.get j = .zero := by
  constructor
  · intro h j hn hj
    rw [t.get_eq_getElem hj]
    refine h _ (List.mem_drop_iff_getElem.2 ⟨j - n, ?_, ?_⟩)
    · rwa [Nat.sub_add_cancel hn, t.digits_length]
    · simp only [Nat.add_sub_cancel' hn]
  · intro h d hd
    rw [TVec.drop_digits_congr (u := zero40) fun j hn hj => (h j hn hj).trans (TVec.get_zero40 j).symm] at hd
    exact List.eq_of_mem_replicate (List.mem_of_mem_drop hd)

/-! ## Values and wrap -/

theorem digitsVal_replicate_zero (n : Nat) : digitsVal (List.replicate n .zero) = 0 := by
  induction n with
  | zero => rfl
  | succ n ih => rw [List.replicate_succ, digitsVal_cons, ih]; rfl

theorem digitsVal_eq_zero_iff (l : List Trit) : digitsVal l = 0 ↔ ∀ t ∈ l, t = .zero := by
  induction l with
  | nil => simp [digitsVal]
  | cons t l ih =>
    have ht := t.toInt_bounds
    have hzero : t = .zero ↔ t.toInt = 0 := not_iff_not.1 t.ne_zero_iff
    rw [digitsVal_cons, List.forall_mem_cons, ← ih, hzero]
    omega

/-- A vector that differs from `x` by a multiple of 3^40 is `wrap_40(x)` (00_scope.md R7). -/
theorem eq_wrap40_of_add_mul {t : TVec} {x c : Int} (h : t.val + 3 ^ 40 * c = x) : t = wrap40 x :=
  eq_wrap40 (Int.emod_eq_zero_of_dvd ⟨-c, by rw [← h]; ring⟩)

/-- An integer no larger in magnitude than a vector's value fits in a vector (00_scope.md R6). -/
theorem wrap40_val_of_natAbs_le {t : TVec} {x : Int} (h : x.natAbs ≤ t.val.natAbs) : (wrap40 x).val = x := by
  have ht := t.val_bounds
  exact wrap40_val_of_small (by omega) (by omega)

end Sys2Proof

namespace Sys2Proof.Machine

/-! ## The sweep of `add` and `sub` -/

/-- The carry into position `i` of a sweep over two vectors: the carry out of its low `i` positions (42_arith.md R170,
R171). -/
def carryInto (op : Int → Int → Int) (x y : TVec) (i : Nat) : Trit :=
  (carrySweep op (x.digits.take i) (y.digits.take i) .zero).2

theorem carryInto_zero (op : Int → Int → Int) (x y : TVec) : carryInto op x y 0 = .zero := rfl

theorem carryInto_forty (op : Int → Int → Int) (x y : TVec) : carryInto op x y 40 = sweepCarry op x y := by
  simp [carryInto, sweepCarry, List.take_of_length_le]

section
variable {op : Int → Int → Int} (hop : ∀ x y : Trit, -3 ≤ op x.toInt y.toInt ∧ op x.toInt y.toInt ≤ 3)
include hop

/-- With an incoming carry the combined digits stay within -4 and 4, so each position keeps and passes on all of it. -/
theorem carrySweep_digit {xs ys : List Trit} (hl : xs.length = ys.length) (c : Trit) {i : Nat} (hi : i < xs.length) :
    ((carrySweep op xs ys c).1.getD i .zero).toInt + 3 * (carrySweep op (xs.take (i + 1)) (ys.take (i + 1)) c).2.toInt =
      op (xs.getD i .zero).toInt (ys.getD i .zero).toInt + (carrySweep op (xs.take i) (ys.take i) c).2.toInt := by
  induction xs generalizing ys c i with
  | nil => simp at hi
  | cons x xs ih =>
    cases ys with
    | nil => simp at hl
    | cons y ys =>
      cases i with
      | zero =>
        have hc := c.toInt_bounds
        have hxy := hop x y
        simpa [carrySweep] using twoDigits_sum (x := op x.toInt y.toInt + c.toInt) (by omega) (by omega)
      | succ i => exact ih (Nat.succ.inj hl) _ (Nat.lt_of_succ_lt_succ hi)

theorem sweepDigits_get (x y : TVec) {i : Nat} (hi : i < 40) :
    ((sweepDigits op x y).get i).toInt + 3 * (carryInto op x y (i + 1)).toInt =
      op (x.get i).toInt (y.get i).toInt + (carryInto op x y i).toInt :=
  carrySweep_digit hop (x.size_eq.trans y.size_eq.symm) .zero (by simpa using hi)

/-- The carries between positions determine every digit that the sweep keeps (42_arith.md R170, R171). -/
theorem exists_carries (x y : TVec) :
    ∃ cs : Nat → Trit, cs 0 = .zero ∧ sweepCarry op x y = cs 40 ∧
      ∀ i, i < 40 → ((sweepDigits op x y).get i).toInt + 3 * (cs (i + 1)).toInt =
        op (x.get i).toInt (y.get i).toInt + (cs i).toInt :=
  ⟨carryInto op x y, carryInto_zero op x y, (carryInto_forty op x y).symm, fun _ hi => sweepDigits_get hop x y hi⟩

/-- The carries between positions cancel in the weighted sum of the digits, and only the carry out of the top remains
(42_arith.md R170, R171). -/
theorem sweepDigits_val (x y : TVec) :
    (sweepDigits op x y).val + 3 ^ 40 * (sweepCarry op x y).toInt =
      ∑ i ∈ Finset.range 40, op (x.get i).toInt (y.get i).toInt * 3 ^ i := by
  have hcarry := Finset.sum_range_sub (fun i => (carryInto op x y i).toInt * 3 ^ i) 40
  rw [carryInto_zero, carryInto_forty] at hcarry
  have hdigit : ∀ i ∈ Finset.range 40, op (x.get i).toInt (y.get i).toInt * 3 ^ i =
      ((sweepDigits op x y).get i).toInt * 3 ^ i +
        ((carryInto op x y (i + 1)).toInt * 3 ^ (i + 1) - (carryInto op x y i).toInt * 3 ^ i) := by
    intro i hi
    rw [eq_sub_of_add_eq (sweepDigits_get hop x y (Finset.mem_range.1 hi)).symm]
    ring
  rw [Finset.sum_congr rfl hdigit, Finset.sum_add_distrib, hcarry, ← TVec.val_eq_sum]
  simp [Trit.toInt, mul_comm]

end

theorem add_toInt_bounds (x y : Trit) : -3 ≤ x.toInt + y.toInt ∧ x.toInt + y.toInt ≤ 3 := by
  have hx := x.toInt_bounds
  have hy := y.toInt_bounds
  omega

theorem sub_toInt_bounds (x y : Trit) : -3 ≤ x.toInt - y.toInt ∧ x.toInt - y.toInt ≤ 3 := by
  have hx := x.toInt_bounds
  have hy := y.toInt_bounds
  omega

theorem sweepDigits_add_val (x y : TVec) :
    (sweepDigits (· + ·) x y).val + 3 ^ 40 * (sweepCarry (· + ·) x y).toInt = x.val + y.val := by
  rw [sweepDigits_val add_toInt_bounds, x.val_eq_sum, y.val_eq_sum, ← Finset.sum_add_distrib]
  exact Finset.sum_congr rfl fun i _ => add_mul _ _ _

theorem sweepDigits_sub_val (x y : TVec) :
    (sweepDigits (· - ·) x y).val + 3 ^ 40 * (sweepCarry (· - ·) x y).toInt = x.val - y.val := by
  rw [sweepDigits_val sub_toInt_bounds, x.val_eq_sum, y.val_eq_sum, ← Finset.sum_sub_distrib]
  exact Finset.sum_congr rfl fun i _ => sub_mul _ _ _

/-! ## The quotient and remainder of `div` -/

theorem quotient_eq_tdiv (m : DivRounding) (a b : Int) : quotient m a b = Int.tdiv a b := by
  cases m
  rfl

theorem tmod_eq_sub (a b : Int) : Int.tmod a b = a - Int.tdiv a b * b := by
  rw [Int.tmod_def, mul_comm]

theorem natAbs_tmod_lt (a : Int) {b : Int} (hb : b ≠ 0) : (Int.tmod a b).natAbs < b.natAbs := by
  rw [Int.natAbs_tmod]
  exact Nat.mod_lt _ (Int.natAbs_pos.2 hb)

/-- The remainder is 0 or takes the sign of the dividend (42_arith.md R173). -/
theorem tmod_eq_zero_or_sign (a b : Int) : Int.tmod a b = 0 ∨ (Int.tmod a b).sign = a.sign := by
  by_cases hd : b ∣ a
  · exact .inl (Int.tmod_eq_zero_of_dvd hd)
  · exact .inr (by rw [Int.sign_tmod, if_neg hd])

/-- The quotient is no larger in magnitude than the dividend, so R holds it exactly (42_arith.md R173). -/
theorem wrap40_tdiv_val (a : TVec) (b : Int) : (wrap40 (Int.tdiv a.val b)).val = Int.tdiv a.val b :=
  wrap40_val_of_natAbs_le (Int.natAbs_tdiv_le_natAbs _ _)

/-- The remainder is no larger in magnitude than the dividend, so R2 holds it exactly (42_arith.md R173). -/
theorem wrap40_tmod_val (a : TVec) (b : Int) : (wrap40 (Int.tmod a.val b)).val = Int.tmod a.val b :=
  wrap40_val_of_natAbs_le (by rw [Int.natAbs_tmod]; exact Nat.mod_le _ _)

theorem exec_div_of_ne_zero {s : State} (hb : s.b.val ≠ 0) :
    exec .div s = .next (afterR2 s (wrap40 (Int.tdiv s.a.val s.b.val)) (wrap40 (Int.tmod s.a.val s.b.val)) false) := by
  rw [tmod_eq_sub, ← quotient_eq_tdiv s.config.divRounding]
  exact if_neg hb

theorem exec_div_of_eq_zero {s : State} (hb : s.b.val = 0) : exec .div s = .next (afterError s 2) :=
  if_pos hb

/-! ## The scan of `cmp` -/

theorem scanCompare_self (l : List Trit) : scanCompare l l = .zero := by
  induction l with
  | nil => rfl
  | cons x l ih => rw [scanCompare, if_pos rfl, ih]

/-- The scan passes over the positions where the digits agree. -/
theorem scanCompare_append (l xs ys : List Trit) : scanCompare (l ++ xs) (l ++ ys) = scanCompare xs ys := by
  induction l with
  | nil => rfl
  | cons x l ih => rw [List.cons_append, List.cons_append, scanCompare, if_pos rfl, ih]

/-- The scan stops at the first position where the digits differ (42_arith.md R174). -/
theorem scanCompare_cons_of_ne {x y : Trit} (h : x ≠ y) (xs ys : List Trit) :
    scanCompare (x :: xs) (y :: ys) = if x.toInt > y.toInt then .pos else .neg := by
  rw [scanCompare, if_neg h]

/-- From the top digit down, the scan's answer is that of the highest differing position (42_arith.md R174). -/
theorem scanCompare_reverse_digits {t u : TVec} {i : Nat} (hi : i < 40) (hne : t.get i ≠ u.get i)
    (h : ∀ j, i < j → j < 40 → t.get j = u.get j) :
    scanCompare t.digits.reverse u.digits.reverse = if (t.get i).toInt > (u.get i).toInt then .pos else .neg := by
  rw [t.reverse_digits_eq hi, u.reverse_digits_eq hi, TVec.drop_digits_congr h, scanCompare_append,
    scanCompare_cons_of_ne hne]

/-! ## The dropped digits of `shl` -/

/-- The digits of `shl k` before the cut at 40: `k` Zero digits below the digits of the vector (42_arith.md R175). -/
def shiftedDigits (t : TVec) (k : Nat) : List Trit := List.replicate k .zero ++ t.digits

theorem shiftedDigits_val (t : TVec) (k : Nat) : digitsVal (shiftedDigits t k) = t.val * 3 ^ k := by
  rw [shiftedDigits, digitsVal_append, digitsVal_replicate_zero, List.length_replicate, zero_add, mul_comm]
  rfl

theorem shiftLeft_digits (t : TVec) (k : Nat) : (shiftLeft t k).digits = (shiftedDigits t k).take 40 := by
  refine List.ext_getElem (by simp [shiftedDigits]) fun i hi _ => ?_
  have h40 : i < 40 := by simpa using hi
  rw [← TVec.get_eq_getElem _ h40, shiftLeft, TVec.get_ofFn _ h40, List.getElem_take]
  by_cases hk : k ≤ i
  · simp [shiftedDigits, hk, List.getElem_append_right, TVec.get_eq_getElem t (show i - k < 40 by omega)]
  · simp [shiftedDigits, hk, List.getElem_append_left, Nat.lt_of_not_le hk]

/-- What `shl k` keeps and what it drops make up val(A)·3^k (42_arith.md R175). -/
theorem shiftLeft_val (t : TVec) (k : Nat) :
    (shiftLeft t k).val + 3 ^ 40 * digitsVal ((shiftedDigits t k).drop 40) = t.val * 3 ^ k := by
  rw [← shiftedDigits_val, TVec.val, shiftLeft_digits]
  conv_rhs => rw [← List.take_append_drop 40 (shiftedDigits t k), digitsVal_append]
  simp [shiftedDigits]

theorem shiftOverflow_iff (t : TVec) (k : Nat) :
    shiftOverflow t k = true ↔ ∃ j, j < 40 ∧ 40 ≤ j + k ∧ t.get j ≠ .zero := by
  simp [shiftOverflow]

/-- A dropped digit is non-Zero exactly where the dropped digits have a value (42_arith.md R175). -/
theorem shiftOverflow_iff_dropped_val (t : TVec) (k : Nat) :
    shiftOverflow t k = true ↔ digitsVal ((shiftedDigits t k).drop 40) ≠ 0 := by
  have hdrop : (shiftedDigits t k).drop 40 = List.replicate (k - 40) .zero ++ t.digits.drop (40 - k) := by
    simp [shiftedDigits, List.drop_append]
  have hzero : digitsVal ((shiftedDigits t k).drop 40) = 0 ↔ ∀ j, 40 - k ≤ j → j < 40 → t.get j = .zero := by
    rw [digitsVal_eq_zero_iff, hdrop, List.forall_mem_append, and_iff_right fun _ => List.eq_of_mem_replicate,
      t.forall_mem_drop_digits_iff]
  rw [shiftOverflow_iff, Ne, hzero]
  push Not
  refine exists_congr fun j => ?_
  rw [Nat.sub_le_iff_le_add]
  exact and_left_comm

/-- With any dropped value the product is beyond what the kept digits reach, and with none it is theirs
(42_arith.md R175). -/
theorem shiftOverflow_iff_out_of_range (t : TVec) (k : Nat) :
    shiftOverflow t k = true ↔ t.val * 3 ^ k < -maxVal ∨ maxVal < t.val * 3 ^ k := by
  have hval := shiftLeft_val t k
  have hkept := (shiftLeft t k).val_bounds
  rw [shiftOverflow_iff_dropped_val]
  generalize digitsVal ((shiftedDigits t k).drop 40) = d at *
  unfold maxVal at *
  norm_num at hval
  omega

/-! ## The statements -/

/-- Settles O38: the carries of the sweep are the witnesses, and they cancel in the sum. -/
theorem addKeepsTheSum : Obligations.AddKeepsTheSum := by
  intro s
  exact ⟨afterR s (sweepDigits (· + ·) s.a s.b) (sweepCarry (· + ·) s.a s.b) _, rfl, rfl,
    exists_carries add_toInt_bounds s.a s.b, sweepDigits_add_val s.a s.b⟩

/-- Settles O39: as for `add`; R differs from the difference by the carry out's multiple of 3^40. -/
theorem subKeepsTheDifference : Obligations.SubKeepsTheDifference := by
  intro s
  exact ⟨afterR s (sweepDigits (· - ·) s.a s.b) (sweepCarry (· - ·) s.a s.b) _, rfl, rfl,
    exists_carries sub_toInt_bounds s.a s.b, sweepDigits_sub_val s.a s.b,
    eq_wrap40_of_add_mul (sweepDigits_sub_val s.a s.b)⟩

/-- Settles O41: quotient and remainder are those of truncated division, and neither is wrapped. -/
theorem divTruncatesTowardZero : Obligations.DivTruncatesTowardZero := by
  refine fun s => ⟨fun hb => ⟨_, exec_div_of_ne_zero hb, rfl, ?_⟩, exec_div_of_eq_zero⟩
  simp only [afterR2, wrap40_tdiv_val, wrap40_tmod_val]
  exact ⟨trivial, tmod_eq_sub _ _, natAbs_tmod_lt _ hb, tmod_eq_zero_or_sign _ _⟩

/-- Settles O42: lane 0 is the scan's answer, which the highest differing position decides. -/
theorem cmpFindsTheFirstDifference : Obligations.CmpFindsTheFirstDifference := by
  intro s
  refine ⟨_, rfl, rfl, fun i h₁ h₄₀ => ?_, fun i hi hne habove => ?_, fun heq => ?_⟩
  · exact (TVec.get_ofFn _ h₄₀).trans (if_neg (by omega))
  · exact (TVec.get_ofFn _ (by decide)).trans (scanCompare_reverse_digits hi hne habove)
  · refine (TVec.get_ofFn _ (by decide)).trans ?_
    rw [if_pos rfl, TVec.eq_of_get heq, scanCompare_self]

/-- Settles O43: the kept and the dropped digits make up the product, so R is its wrap and OV its excess. -/
theorem shlMultipliesByPowersOfThree : Obligations.ShlMultipliesByPowersOfThree := by
  intro k s
  exact ⟨afterR s (shiftLeft s.a k) .zero (shiftOverflow s.a k), rfl, rfl, fun i hi => TVec.get_ofFn _ hi,
    shiftOverflow_iff s.a k, eq_wrap40_of_add_mul (shiftLeft_val s.a k), shiftOverflow_iff_out_of_range s.a k⟩

/-- Settles O44: `shr`'s digits are given lane by lane. -/
theorem shrDropsTheLowDigits : Obligations.ShrDropsTheLowDigits := by
  intro k s
  exact ⟨afterR s (shiftRight s.a k) .zero false, rfl, rfl, fun i hi => TVec.get_ofFn _ hi⟩

end Sys2Proof.Machine
end

section
/-! SUPPORT. The proofs of the statements about conversion and moves (43_convert_move.md), after the lemmas that they
share: the integers that R and X hold exactly, and what `fromdec`, `todec` and the moves answer. -/

namespace Sys2Proof

/-! ## The integers that R and X hold exactly -/

/-- An integer of magnitude at most M fits in a vector (00_scope.md R6). -/
theorem wrap40_val_of_natAbs_le_max {x : Int} (h : x.natAbs ≤ 6078832729528464400) : (wrap40 x).val = x := by
  exact wrap40_val_of_small (by unfold maxVal; omega) (by unfold maxVal; omega)

/-- M is less than 2^63, so a 64-bit word holds every vector's value (43_convert_move.md R202). -/
theorem TVec.toInt_ofInt_val (t : TVec) : (BitVec.ofInt 64 t.val).toInt = t.val := by
  have ht := t.val_bounds
  unfold maxVal at ht
  exact BitVec.toInt_ofInt_eq_self (by decide) (by omega) (by omega)

end Sys2Proof

namespace Sys2Proof.Machine

/-! ## What the commands answer -/

section
variable {s : State}

theorem exec_fromdec_in_range (h : s.x.toInt.natAbs ≤ 6078832729528464400) :
    exec .fromdec s = .next (afterR s (wrap40 s.x.toInt) .zero false) :=
  if_neg (by unfold maxVal; omega)

theorem exec_fromdec_out_of_range (h : 6078832729528464400 < s.x.toInt.natAbs) :
    exec .fromdec s = .next (afterError s 5) :=
  if_pos (by unfold maxVal; omega)

end

theorem exec_todec (s : State) : exec .todec s = .next (afterX s (BitVec.ofInt 64 s.a.val)) := rfl

theorem exec_movAR (s : State) : exec .movAR s = .next { s with a := s.r, c := .zero, ov := false, err := 0#3 } := rfl

/-! ## The statements -/

/-- Settles O46: within M the wrap of X is exact, and beyond it the command's range check fails. -/
theorem fromdecConvertsInRange : Obligations.FromdecConvertsInRange := by
  intro s
  exact ⟨fun h => ⟨_, exec_fromdec_in_range h, rfl, wrap40_val_of_natAbs_le_max h⟩, exec_fromdec_out_of_range⟩

/-- Settles O47: X holds val(A) exactly, and after `fromdec` and the move val(A) is the integer that X held. -/
theorem todecLeavesTheValue : Obligations.TodecLeavesTheValue := by
  refine ⟨fun s => ⟨_, exec_todec s, rfl, s.a.toInt_ofInt_val⟩, fun s h => ?_⟩
  refine ⟨_, _, _, exec_fromdec_in_range h, exec_movAR _, exec_todec _, ?_⟩
  calc BitVec.ofInt 64 (wrap40 s.x.toInt).val
      = BitVec.ofInt 64 s.x.toInt := by rw [wrap40_val_of_natAbs_le_max h]
    _ = s.x := BitVec.ofInt_toInt

/-- Settles O48: each move is its one assignment and a success. -/
theorem movCopiesAResultRegister : Obligations.MovCopiesAResultRegister :=
  fun s => ⟨exec_movAR s, rfl, rfl, rfl⟩

end Sys2Proof.Machine
end

section
/-! SUPPORT. The proofs of the statements about the codec (44_codec.md), after the lemmas that they share: the code of the
low trits as a sum, the digits of a code as numbers, and what each command answers. -/

namespace Sys2Proof

/-! ## Codes and their digits -/

/-- The sum form of a code: `Σ (t[i] + 1)·3^i` (44_codec.md R220, R222, R224). -/
theorem codeOf_map_range (m : Nat) (f : Nat → Trit) :
    (codeOf ((List.range m).map f) : Int) = ∑ i ∈ Finset.range m, ((f i).toInt + 1) * 3 ^ i := by
  induction m generalizing f with
  | zero => rfl
  | succ m ih =>
    rw [List.range_succ_eq_map, List.map_cons, List.map_map, codeOf_cons, Finset.sum_range_succ', Nat.cast_add,
      Nat.cast_mul, ih, Trit.codeDigit_eq, Finset.mul_sum, add_comm, pow_zero, mul_one]
    congr 1
    exact Finset.sum_congr rfl fun i _ => by rw [pow_succ', Nat.cast_ofNat, mul_left_comm]; rfl

/-- `digit(c, i)` as a number (44_codec.md, introduction). -/
theorem digitOf_toInt (c i : Nat) : (digitOf c i).toInt = ((c / 3 ^ i % 3 : Nat) : Int) - 1 := by
  rw [← digitOf_codeDigit, Trit.codeDigit_eq, add_sub_cancel_right]

theorem digitOf_eq_zero_iff (c i : Nat) : digitOf c i = .zero ↔ c / 3 ^ i % 3 = 1 := by
  rw [← digitOf_codeDigit]
  cases digitOf c i <;> decide

end Sys2Proof

namespace Sys2Proof.Machine

section
variable (t : TVec) {m : Nat} (hm : m ≤ 40)
include hm

theorem codeOf_take_lt : codeOf (t.digits.take m) < 3 ^ m := by
  have hlt := codeOf_lt (t.digits.take m)
  rwa [List.length_take, TVec.digits_length, Nat.min_eq_left hm] at hlt

theorem codeOf_take_eq_sum :
    (codeOf (t.digits.take m) : Int) = ∑ i ∈ Finset.range m, ((t.get i).toInt + 1) * 3 ^ i := by
  rw [take_digits_eq_map_get t hm, codeOf_map_range]

/-- X holds every code of at most 40 trits, as 3^40 < 2^64 (44_codec.md R222). -/
theorem toNat_ofNat_codeOf_take : (BitVec.ofNat 64 (codeOf (t.digits.take m))).toNat = codeOf (t.digits.take m) := by
  have hpow : 3 ^ m ≤ 3 ^ 40 := Nat.pow_le_pow_right (by decide) hm
  rw [BitVec.toNat_ofNat, Nat.mod_eq_of_lt ((codeOf_take_lt t hm).trans (hpow.trans_lt (by norm_num)))]

end

theorem decodeCode_get_toInt {m i : Nat} (hm : m ≤ 40) (hi : i < m) (c : Nat) :
    ((decodeCode m c).get i).toInt = ((c / 3 ^ i % 3 : Nat) : Int) - 1 := by
  rw [decodeCode_get m c (hi.trans_le hm), if_pos hi, digitOf_toInt]

/-! ## The chunks that `pack` stores and `unpack` checks -/

/-- The sum form of a stored chunk, whose padding slots count as Zero (44_codec.md R224). -/
theorem codeOf_packChunk_eq_sum (t : TVec) (n c : Nat) :
    (codeOf (packChunk t n c) : Int) =
      ∑ j ∈ Finset.range 5, ((if 5 * c + j < n then (t.get (5 * c + j)).toInt else 0) + 1) * 3 ^ j := by
  rw [packChunk, codeOf_map_range]
  refine Finset.sum_congr rfl fun j _ => ?_
  rw [apply_ite Trit.toInt]
  rfl

theorem lt_chunkCount_iff (n c : Nat) : c < chunkCount n ↔ 5 * c < n := by
  unfold chunkCount
  omega

/-- The two checks of a chunk, in numbers (44_codec.md R225). -/
theorem chunkRefused_iff (v : Word) (n c : Nat) :
    chunkRefused v n c = true ↔
      242 < byteOf v c ∨ ∃ j, j < 5 ∧ n ≤ 5 * c + j ∧ byteOf v c / 3 ^ j % 3 ≠ 1 := by
  simp [chunkRefused, digitOf_eq_zero_iff]

theorem someChunkRefused_iff (v : Word) (n : Nat) :
    ((List.range (chunkCount n)).any fun c => chunkRefused v n c) = true ↔
      ∃ c, 5 * c < n ∧ (242 < byteOf v c ∨ ∃ j, j < 5 ∧ n ≤ 5 * c + j ∧ byteOf v c / 3 ^ j % 3 ≠ 1) := by
  simp only [List.any_eq_true, List.mem_range, lt_chunkCount_iff, chunkRefused_iff]

theorem unpackVec_get (v : Word) (n : Nat) {p : Nat} (hp : p < 40) :
    (unpackVec v n).get p = if p < n then digitOf (byteOf v (p / 5)) (p % 5) else .zero := TVec.get_ofFn _ hp

/-! ## What the commands answer -/

theorem exec_cenc (s : State) : exec .cenc s = .next (afterX s (BitVec.ofNat 64 (codeOf (s.a.digits.take 5)))) := rfl

/-- The Word code is the code of all 40 trits (44_codec.md R222). -/
theorem exec_wenc (s : State) : exec .wenc s = .next (afterX s (BitVec.ofNat 64 (codeOf (s.a.digits.take 40)))) := by
  rw [List.take_of_length_le (TVec.digits_length s.a).le]
  rfl

theorem exec_pack (n : Nat) (s : State) : exec (.pack n) s = .next (afterX s (packWord s.a n)) := rfl

section
variable {s : State} {n : Nat}

theorem exec_cdec_in_range (h : s.x.toNat ≤ 242) :
    exec .cdec s = .next (afterR s (decodeCode 5 s.x.toNat) .zero false) := if_neg h.not_gt

theorem exec_cdec_out_of_range (h : 242 < s.x.toNat) : exec .cdec s = .next (afterError s 4) := if_pos h

theorem exec_wdec_in_range (h : s.x.toNat < 3 ^ 40) :
    exec .wdec s = .next (afterR s (decodeCode 40 s.x.toNat) .zero false) := if_neg h.not_ge

theorem exec_wdec_out_of_range (h : 3 ^ 40 ≤ s.x.toNat) : exec .wdec s = .next (afterError s 4) := if_pos h

theorem exec_unpack_accepted (h : ¬ ((List.range (chunkCount n)).any fun c => chunkRefused s.x n c) = true) :
    exec (.unpack n) s = .next (afterR s (unpackVec s.x n) .zero false) := if_neg h

theorem exec_unpack_refused (h : ((List.range (chunkCount n)).any fun c => chunkRefused s.x n c) = true) :
    exec (.unpack n) s = .next (afterError s 4) := if_pos h

end

/-! ## The statements -/

/-- Settles O49: X holds the code of the low five trits, which is below 3^5. -/
theorem cencLeavesTheChunkCode : Obligations.CencLeavesTheChunkCode := by
  intro s
  have hx := toNat_ofNat_codeOf_take s.a (m := 5) (by decide)
  refine ⟨_, exec_cenc s, rfl, ?_, ?_⟩
  · exact hx.trans_le (Nat.le_of_lt_succ (codeOf_take_lt s.a (by decide)))
  · exact (congrArg Nat.cast hx).trans (codeOf_take_eq_sum s.a (by decide))

/-- Settles O50: up to 242 R is the decoded code, and beyond it the command's range check fails. -/
theorem cdecReadsTheChunkCode : Obligations.CdecReadsTheChunkCode := by
  refine fun s => ⟨fun h => ⟨_, exec_cdec_in_range h, rfl, fun i hi => ?_, fun i h5 h40 => ?_⟩, exec_cdec_out_of_range⟩
  · exact decodeCode_get_toInt (by decide) hi _
  · exact (decodeCode_get 5 _ h40).trans (if_neg h5.not_gt)

/-- Settles O51: X holds the code of all forty trits, which is below 3^40. -/
theorem wencLeavesTheWordCode : Obligations.WencLeavesTheWordCode := by
  intro s
  have hx := toNat_ofNat_codeOf_take s.a le_rfl
  refine ⟨_, exec_wenc s, rfl, ?_, ?_⟩
  · exact hx.trans_lt (codeOf_take_lt s.a le_rfl)
  · exact (congrArg Nat.cast hx).trans (codeOf_take_eq_sum s.a le_rfl)

/-- Settles O52: below 3^40 R is the decoded code, and from there on the command's range check fails. -/
theorem wdecReadsTheWordCode : Obligations.WdecReadsTheWordCode :=
  fun _ => ⟨fun h => ⟨_, exec_wdec_in_range h, rfl, fun _ hi => decodeCode_get_toInt le_rfl hi _⟩, exec_wdec_out_of_range⟩

/-- Settles O53: byte `c` of the stored word is the code of chunk `c`, or 0 beyond the chunks used. -/
theorem packStoresTheChunks : Obligations.PackStoresTheChunks := by
  intro n s hn
  refine ⟨_, exec_pack n s, rfl, fun c _ => ?_⟩
  calc ((byteOf (packWord s.a n) c : Nat) : Int)
      = if 5 * c < n then (codeOf (packChunk s.a n c) : Int) else 0 := by
        rw [byteOf_packWord s.a c hn, Nat.cast_ite, Nat.cast_zero]
    _ = _ := by rw [codeOf_packChunk_eq_sum]

/-- Settles O54: the command's one check asks whether some used chunk is refused; if none is, R is what the bytes
decode to. -/
theorem unpackReadsTheChunks : Obligations.UnpackReadsTheChunks := by
  intro n s hn
  refine ⟨fun hok => ?_, fun hbad => exec_unpack_refused ((someChunkRefused_iff s.x n).2 hbad)⟩
  have hacc : ¬ ((List.range (chunkCount n)).any fun c => chunkRefused s.x n c) = true := by
    rw [someChunkRefused_iff]
    rintro ⟨c, hc, hbyte | ⟨j, hj, hpad, hdigit⟩⟩
    · exact hbyte.not_ge (hok c hc).1
    · exact hdigit ((hok c hc).2 j hj hpad)
  refine ⟨_, exec_unpack_accepted hacc, rfl, fun p hp => ?_, fun p hnp hp => ?_⟩
  · exact (congrArg Trit.toInt ((unpackVec_get s.x n (hp.trans_le hn)).trans (if_pos hp))).trans (digitOf_toInt _ _)
  · exact (unpackVec_get s.x n hp).trans (if_neg hnp.not_gt)

end Sys2Proof.Machine
end

section
/-! SUPPORT. The proofs of the statements about errors (60_exceptions.md), after the lemmas that they share: what an
error leaves, the error code that each command ends with, and what the other host accesses do to ERR. -/

namespace Sys2Proof.Machine

/-! ## What an error leaves -/

theorem State.raiseError_eq_afterError (e : ErrorClass) (s : State) : s.raiseError e = afterError s e.code := rfl

/-- A command that ends with ERR non-zero leaves the state before it with that error recorded
(60_exceptions.md R256). -/
theorem Ends.eq_afterError {s t : State} (h : Ends s t) (herr : t.err ≠ 0#3) : t = afterError s t.err.toNat := by
  cases h with
  | error e he =>
    obtain ⟨-, -, hcode⟩ := ErrorClass.code_bits he.1
    rw [State.raiseError_err, hcode, State.raiseError_eq_afterError]
  | writesR | writesR2 | writesX | writesA | writesB => exact absurd rfl herr

theorem RecordsError.err_ne_zero {s t : State} (h : RecordsError s t) : t.err ≠ 0#3 := by
  obtain ⟨e, he, herr, -⟩ := h
  obtain ⟨h2, -, hcode⟩ := ErrorClass.code_bits he
  intro h0
  rw [← herr, h0] at hcode
  simp only [BitVec.toNat_ofNat] at hcode
  omega

/-- A successful command leaves STICKY as it was (10_state.md R31). -/
theorem Ends.sticky_of_success {s t : State} (h : Ends s t) (herr : t.err = 0#3) : t.sticky = s.sticky :=
  (h.succeeds_or_records.resolve_right fun hr => hr.err_ne_zero herr).2

/-- A CMD write of a word that does not decode (60_exceptions.md R255). -/
theorem step_write_undecodable {s : State} {w : Word} {rest : List HostEvent} {e : DecodeReject}
    (h : writesNext s 0x48 w rest) (hd : decode w = .error e) :
    step s = .next (afterError { taken s rest with cmd := w } 6) := by
  rw [step_writeCmd h, writeCmd, runWord, hd]
  rfl

/-! ## The error code that a command ends with -/

/-- The answer is a next state whose ERR is `code`. -/
def AnswersErr (code : Nat) (o : Answer) : Prop := ∃ t, o = .next t ∧ t.err.toNat = code

theorem fail_answersErr {e : ErrorClass} (he : e ≠ .parse) (s : State) : AnswersErr e.code (fail e s) :=
  ⟨_, rfl, (ErrorClass.code_bits he).2.2⟩

theorem succeedR_answersErr (r : TVec) (c : Trit) (ov : Bool) (s : State) : AnswersErr 0 (succeedR r c ov s) :=
  ⟨_, rfl, rfl⟩

theorem succeedR2_answersErr (r r2 : TVec) (ov : Bool) (s : State) : AnswersErr 0 (succeedR2 r r2 ov s) :=
  ⟨_, rfl, rfl⟩

theorem succeedX_answersErr (v : Word) (s : State) : AnswersErr 0 (succeedX v s) := ⟨_, rfl, rfl⟩

/-- A command whose one check fails exactly for the cause `q` ends with that check's error or in success. -/
theorem checked_answersErr {p q : Prop} [Decidable p] [Decidable q] (hpq : p ↔ q) {e : ErrorClass} (he : e ≠ .parse)
    {s : State} {o : Answer} (ho : AnswersErr 0 o) :
    AnswersErr (if q then e.code else 0) (if p then fail e s else o) := by
  by_cases hq : q
  · rw [if_pos hq, if_pos (hpq.2 hq)]
    exact fail_answersErr he s
  · rw [if_neg hq, if_neg (hpq.not.2 hq)]
    exact ho

theorem scalarBinary_answersErr {t : BinaryTable} {s : State} {q : Prop} [Decidable q]
    (hq : t.at (s.a.get 0) (s.b.get 0) = none ↔ q) : AnswersErr (if q then 3 else 0) (scalarBinary t s) := by
  unfold scalarBinary
  cases hd : t.at (s.a.get 0) (s.b.get 0) with
  | none =>
    rw [if_pos (hq.1 hd)]
    exact fail_answersErr (by decide) s
  | some d =>
    rw [if_neg fun h => by simp [hq.2 h] at hd]
    exact succeedR_answersErr _ _ _ s

theorem lanesBinary_answersErr {t : BinaryTable} {right : Nat → Trit} {s : State} {q : Prop} [Decidable q]
    (hq : (∃ i, i < 40 ∧ t.at (s.a.get i) (right i) = none) ↔ q) :
    AnswersErr (if q then 3 else 0) (lanesBinary t right s) :=
  checked_answersErr ((someLaneUndefined_iff t s.a right).trans hq) (e := .domain) (by decide)
    (succeedR_answersErr _ _ _ s)

/-! ### The rows of the table of causes (60_exceptions.md R250) -/

theorem errorCode_dun (o : UnOp) (s : State) : errorCode (dunInstr o) s = 0 := by cases o <;> rfl

theorem errorCode_each (o : UnOp) (s : State) : errorCode (eachInstr o) s = 0 := by cases o <;> rfl

theorem errorCode_dbin (o : BinOp) (s : State) :
    errorCode (dbinInstr o) s = if o = .div ∧ s.b.get 0 = .zero then 3 else 0 := by
  cases o <;> simp [dbinInstr, errorCode]

theorem errorCode_eachw (o : BinOp) (d : Trit) (s : State) :
    errorCode (eachwInstr d o) s = if o = .div ∧ d = .zero then 3 else 0 := by
  cases o <;> simp [eachwInstr, errorCode]

theorem errorCode_zip (o : BinOp) (s : State) :
    errorCode (zipInstr o) s = if o = .div ∧ ((List.range 40).any fun j => decide (s.b.get j = .zero)) = true
      then 3 else 0 := by
  cases o <;> simp [zipInstr, errorCode]

/-! ### The commands' codes -/

section
variable {s : State} (hl : s.config.lawful = true)
include hl

theorem exec_dbin_answersErr (o : BinOp) : AnswersErr (errorCode (dbinInstr o) s) (exec (dbinInstr o) s) := by
  rw [exec_dbin, errorCode_dbin]
  exact scalarBinary_answersErr (lawful_binary_undefined hl o _ _)

theorem exec_eachw_answersErr (o : BinOp) (d : Trit) :
    AnswersErr (errorCode (eachwInstr d o) s) (exec (eachwInstr d o) s) := by
  rw [exec_eachw, errorCode_eachw]
  refine lanesBinary_answersErr
    ((lawful_lane_undefined_iff hl o s.a.get fun _ => d).trans (and_congr_right fun _ => ?_))
  exact ⟨fun ⟨_, _, hz⟩ => hz, fun hz => ⟨0, by decide, hz⟩⟩

theorem exec_zip_answersErr (o : BinOp) : AnswersErr (errorCode (zipInstr o) s) (exec (zipInstr o) s) := by
  rw [exec_zip, errorCode_zip]
  refine lanesBinary_answersErr ((lawful_lane_undefined_iff hl o s.a.get s.b.get).trans (and_congr_right fun _ => ?_))
  simp

end

/-- The two forms of `fromdec`'s range check (43_convert_move.md R200). -/
theorem out_of_range_iff (x : Int) : (maxVal < x ∨ x < -maxVal) ↔ x.natAbs > 6078832729528464400 := by
  unfold maxVal
  omega

theorem exec_unpack_answersErr (n : Nat) (s : State) : AnswersErr (errorCode (.unpack n) s) (exec (.unpack n) s) := by
  refine checked_answersErr ?_ (e := .codec) (by decide) (succeedR_answersErr _ _ _ s)
  simp [chunkRefused, chunkCount, digitOf_eq_zero_iff]

theorem exec_plain_answersErr {i : Instr} (h : Plain i) (s : State) : AnswersErr (errorCode i s) (exec i s) := by
  cases h with
  | add | sub | cmp | shl | shr => exact succeedR_answersErr _ _ _ s
  | mul => exact succeedR2_answersErr _ _ _ s
  | todec | cenc | wenc | pack => exact succeedX_answersErr _ s
  | movAR | movBR | movAR2 | movBR2 => exact ⟨_, rfl, rfl⟩
  | div => exact checked_answersErr Iff.rfl (e := .arithmetic) (by decide) (succeedR2_answersErr _ _ _ s)
  | fromdec => exact checked_answersErr (out_of_range_iff _) (e := .range) (by decide) (succeedR_answersErr _ _ _ s)
  | cdec | wdec => exact checked_answersErr Iff.rfl (e := .codec) (by decide) (succeedR_answersErr _ _ _ s)
  | unpack n => exact exec_unpack_answersErr n s

/-- Every command ends with the code that the table of causes gives it (60_exceptions.md R250). -/
theorem exec_answersErr (i : Instr) {s : State} (hl : s.config.lawful = true) :
    AnswersErr (errorCode i s) (exec i s) := by
  rcases instr_family i with ⟨o, rfl⟩ | ⟨o, rfl⟩ | ⟨o, rfl⟩ | ⟨o, d, rfl⟩ | ⟨o, rfl⟩ | h
  · rw [exec_dun, errorCode_dun]
    exact succeedR_answersErr _ _ _ s
  · exact exec_dbin_answersErr hl o
  · rw [exec_each, errorCode_each]
    exact succeedR_answersErr _ _ _ s
  · exact exec_eachw_answersErr hl o d
  · exact exec_zip_answersErr hl o
  · exact exec_plain_answersErr h s

/-! ## What the other accesses do to ERR -/

section
variable {s t : State} {off : Nat} {v : Word} {rest : List HostEvent}

/-- A write of a half of A or B (10_state.md R23). -/
theorem step_writeHalf_err {base n : Nat}
    (h : ((off = 0x00 ∨ off = 0x10) ∧ base = 0 ∧ n = 32) ∨ ((off = 0x08 ∨ off = 0x18) ∧ base = 32 ∧ n = 8))
    (hw : writesNext s off v rest) (ht : step s = .next t) :
    t.err = if illegalPair v n = true then 4#3 else s.err := by
  rw [step_writeHalf h hw] at ht
  cases ht
  cases hv : illegalPair v n with
  | true => rw [writeHalf_illegal hv]; rfl
  | false => rw [writeHalf_legal hv]; split <;> rfl

/-- X, STATUS and the ignored writes leave ERR alone. -/
theorem step_write_keeps_err (hlo : 0x20 ≤ off) (ho : off < 256) (ha : off % 8 = 0) (hcmd : off ≠ 0x48)
    (hw : writesNext s off v rest) (ht : step s = .next t) : t.err = s.err := by
  rw [step_write ho ha hw] at ht
  obtain rfl | rfl | hignored : off = 0x40 ∨ off = 0x50 ∨ (0x20 ≤ off ∧ off ≤ 0x38) ∨ 0x58 ≤ off := by omega
  · cases ht; rfl
  · cases ht; rfl
  · rw [writeReg_ignored ha hignored] at ht
    cases ht
    rfl

/-- A read leaves ERR alone (20_memory.md R57). -/
theorem step_read_keeps_err (hr : readsNext s off rest) (ht : step s = .next t) : t.err = s.err := by
  rw [step_event hr] at ht
  obtain ⟨_, -, -, hread⟩ := serveAccess_next_offset ht
  cases hread
  rfl

/-- Of the writes other than to CMD, only a refused half raises an error (60_exceptions.md R254). -/
theorem step_write_err (ha : off % 8 = 0) (ho : off < 256) (hcmd : off ≠ 0x48) (hw : writesNext s off v rest)
    (ht : step s = .next t) :
    t.err = (if (off = 0x00 ∨ off = 0x10) ∧ illegalPair v 32 = true ∨ (off = 0x08 ∨ off = 0x18) ∧ illegalPair v 8 = true
      then 4#3 else s.err) := by
  obtain hlo | hhi | hother : (off = 0x00 ∨ off = 0x10) ∨ (off = 0x08 ∨ off = 0x18) ∨ 0x20 ≤ off := by omega
  · have hne : ¬ (off = 0x08 ∨ off = 0x18) := by omega
    simp only [hlo, hne, true_and, false_and, or_false]
    exact step_writeHalf_err (.inl ⟨hlo, rfl, rfl⟩) hw ht
  · have hne : ¬ (off = 0x00 ∨ off = 0x10) := by omega
    simp only [hhi, hne, true_and, false_and, false_or]
    exact step_writeHalf_err (.inr ⟨hhi, rfl, rfl⟩) hw ht
  · rw [if_neg (by omega)]
    exact step_write_keeps_err hother ho ha hcmd hw ht

end

/-- A refused write of a half (10_state.md R23, 60_exceptions.md R254). -/
theorem step_writeHalf_refused {s : State} {v : Word} {rest : List HostEvent} {off base n : Nat}
    (h : ((off = 0x00 ∨ off = 0x10) ∧ base = 0 ∧ n = 32) ∨ ((off = 0x08 ∨ off = 0x18) ∧ base = 32 ∧ n = 8))
    (hw : writesNext s off v rest) (hv : illegalPair v n = true) : step s = .next (afterError (taken s rest) 4) := by
  rw [step_writeHalf h hw, writeHalf_illegal hv]
  rfl

/-! ## The statements -/

/-- Settles O4: the undecodable word's error state, with the code 6 and its bit written out. -/
theorem illegalWordChangesOnlyErrorState : Obligations.IllegalWordChangesOnlyErrorState :=
  fun _ _ _ _ hw hd => step_write_undecodable hw hd

/-- Settles O21: a command's error end, and the two errors that are raised outside commands. -/
theorem errorsWriteOnlyErrAndSticky : Obligations.ErrorsWriteOnlyErrAndSticky := by
  refine ⟨fun i s t h herr => (exec_next h).eq_afterError herr, fun s w rest e hw hd => step_write_undecodable hw hd,
    fun s v rest off ho hw hv => ?_⟩
  by_cases hlo : off % 16 = 0
  · rw [if_pos hlo] at hv
    exact step_writeHalf_refused (.inl ⟨by omega, rfl, rfl⟩) hw hv
  · rw [if_neg hlo] at hv
    exact step_writeHalf_refused (.inr ⟨by omega, rfl, rfl⟩) hw hv

/-- Settles O22: each command answers with its code of the table; its end says what happened to STICKY. -/
theorem outcomesAreThoseOfTheErrorTable : Obligations.OutcomesAreThoseOfTheErrorTable := by
  refine ⟨fun i s hl => ?_, fun s w rest e hw hd => ⟨_, step_write_undecodable hw hd, rfl⟩,
    fun s t off v rest ha ho hcmd hw ht => step_write_err ha ho hcmd hw ht,
    fun s t off rest hr ht => step_read_keeps_err hr ht⟩
  obtain ⟨t, ht, herr⟩ := exec_answersErr i hl
  have hends := exec_next ht
  exact ⟨t, ht, herr, fun h => (hends.records_of_err h).sticky_err, hends.sticky_of_success⟩

end Sys2Proof.Machine
end

section
/-! SUPPORT. The proofs of the statements about the encoding (30_encoding.md), after the lemmas that they share: a
command word as a sum of its fields, the fields' checks, and the commands that checked fields assemble to. -/

namespace Sys2Proof

/-! ## A word and its fields -/

theorem OpClass.opcode_lt (c : OpClass) : c.opcode < 64 := by cases c <;> decide

@[simp] theorem opClass_opcode (c : OpClass) : opClass c.opcode = some c := by cases c <;> rfl

/-- OP values and classes correspond one to one (30_encoding.md R71). -/
theorem opcode_of_opClass {op : Nat} {c : OpClass} (h : opClass op = some c) : c.opcode = op := by
  unfold opClass at h
  split at h <;> cases h <;> rfl

/-- A field above the bits of `x` is added to it. -/
theorem or_shiftLeft_eq_add {x n : Nat} (h : x < 2 ^ n) (y : Nat) : x ||| y <<< n = x + 2 ^ n * y := by
  rw [Nat.or_comm, ← Nat.shiftLeft_add_eq_or_of_lt h, Nat.shiftLeft_eq, mul_comm, add_comm]

/-- The fields of a command word do not overlap (30_encoding.md section 1). -/
theorem CommandFields.word_toNat (f : CommandFields) (hs : f.sel < 32) (hk : f.k < 64) :
    f.word.toNat = f.op.opcode + 2 ^ 6 * f.sel + 2 ^ 11 * f.d.pair.toNat + 2 ^ 13 * f.k := by
  have ho := f.op.opcode_lt
  have hd : f.d.pair.toNat < 4 := f.d.pair.isLt
  have hfit : ∀ {x n b : Nat}, x < 2 ^ b → n + b ≤ 64 → x <<< n % 2 ^ 64 = x <<< n := by
    intro x n b hx hn
    refine Nat.mod_eq_of_lt ?_
    rw [Nat.shiftLeft_eq]
    calc x * 2 ^ n < 2 ^ b * 2 ^ n := Nat.mul_lt_mul_of_pos_right hx (Nat.two_pow_pos n)
      _ = 2 ^ (n + b) := by rw [← pow_add, add_comm]
      _ ≤ 2 ^ 64 := Nat.pow_le_pow_right (by decide) hn
  simp only [CommandFields.word, BitVec.toNat_or, BitVec.toNat_shiftLeft, BitVec.toNat_ofNat, BitVec.toNat_setWidth]
  rw [Nat.mod_eq_of_lt (show f.op.opcode < 2 ^ 64 by omega), Nat.mod_eq_of_lt (show f.sel < 2 ^ 64 by omega),
    Nat.mod_eq_of_lt (show f.d.pair.toNat < 2 ^ 64 by omega), Nat.mod_eq_of_lt (show f.k < 2 ^ 64 by omega),
    hfit (b := 5) hs (by decide), hfit (b := 2) hd (by decide), hfit (b := 6) hk (by decide),
    or_shiftLeft_eq_add (n := 6) (by omega), or_shiftLeft_eq_add (n := 11) (by omega),
    or_shiftLeft_eq_add (n := 13) (by omega)]

/-- A word with RSV 0 is the sum of its other fields (30_encoding.md section 1). -/
theorem toNat_eq_fields {w : Word} (h : rsvField w = 0#45) :
    w.toNat = opField w + 2 ^ 6 * selField w + 2 ^ 11 * (dField w).toNat + 2 ^ 13 * kField w := by
  have hr := congrArg BitVec.toNat h
  simp only [rsvField, opField, selField, dField, kField, BitVec.extractLsb'_toNat, Nat.shiftRight_eq_div_pow,
    BitVec.toNat_ofNat] at hr ⊢
  have hw := w.isLt
  omega

section
variable (f : CommandFields) (hs : f.sel < 32) (hk : f.k < 64)
include hs hk

/-- Each field of a command word reads back (30_encoding.md section 1). -/
theorem CommandFields.fields_word :
    rsvField f.word = 0#45 ∧ opField f.word = f.op.opcode ∧ selField f.word = f.sel ∧ dField f.word = f.d.pair ∧
      kField f.word = f.k := by
  have hw := f.word_toNat hs hk
  have ho := f.op.opcode_lt
  have hd : f.d.pair.toNat < 4 := f.d.pair.isLt
  refine ⟨BitVec.eq_of_toNat_eq ?_, ?_, ?_, BitVec.eq_of_toNat_eq ?_, ?_⟩ <;>
    simp only [rsvField, opField, selField, dField, kField, BitVec.extractLsb'_toNat, Nat.shiftRight_eq_div_pow, hw,
      BitVec.toNat_ofNat] <;>
    omega

/-- A word with RSV 0 is the command word of its fields. -/
theorem CommandFields.word_eq {w : Word} (hr : rsvField w = 0#45) (ho : opField w = f.op.opcode)
    (hsel : selField w = f.sel) (hd : dField w = f.d.pair) (hkf : kField w = f.k) : f.word = w := by
  apply BitVec.eq_of_toNat_eq
  rw [f.word_toNat hs hk, toNat_eq_fields hr, ho, hsel, hd, hkf]

end

theorem selField_lt (w : Word) : selField w < 32 := BitVec.isLt _

theorem kField_lt (w : Word) : kField w < 64 := BitVec.isLt _

/-! ## The fields' checks -/

/-- The fields that pass R70's checks. -/
theorem fieldReject_eq_none_iff (c : OpClass) (sel : Nat) (dp : BitVec 2) (k : Nat) :
    fieldReject c sel dp k = none ↔
      sel ≤ c.format.selMax ∧ (c.format = .bd → dp ≠ 0b10#2) ∧ (c.format ≠ .bd → dp = 0#2) ∧
        (c = .pack ∨ c = .unpack → k ≤ 40) ∧ (c.format ≠ .k → k = 0) := by
  unfold fieldReject
  split_ifs <;> simp_all

/-- Decoding a word: RSV is 0, OP is assigned, the fields pass their checks and assemble to the command
(30_encoding.md R70). -/
theorem decode_eq_ok_iff (w : Word) (i : Instr) :
    decode w = .ok i ↔ rsvField w = 0#45 ∧ ∃ c, opClass (opField w) = some c ∧
      fieldReject c (selField w) (dField w) (kField w) = none ∧
      assemble c (selField w) ((Trit.ofPair (dField w)).getD .zero) (kField w) = some i := by
  unfold decode
  split
  · simp_all
  · cases opClass (opField w) with
    | none => simp_all
    | some c =>
      cases hf : fieldReject c (selField w) (dField w) (kField w) with
      | some r => simp_all
      | none => cases ha : assemble c (selField w) ((Trit.ofPair (dField w)).getD .zero) (kField w) <;> simp_all

/-! ## Fields and commands -/

theorem exists_movInstr_of_le {sel : Nat} (h : sel ≤ 3) :
    ∃ i, movInstr sel = some i ∧ i.fields = ⟨.mov, sel, .zero, 0⟩ ∧ i.wellFormed = true := by
  interval_cases sel <;> exact ⟨_, rfl, rfl, rfl⟩

theorem dunInstr_fields (o : UnOp) :
    (dunInstr o).fields = ⟨.dun, o.sel, .zero, 0⟩ ∧ (dunInstr o).wellFormed = true := by cases o <;> exact ⟨rfl, rfl⟩

theorem dbinInstr_fields (o : BinOp) :
    (dbinInstr o).fields = ⟨.dbin, o.sel, .zero, 0⟩ ∧ (dbinInstr o).wellFormed = true := by
  cases o <;> exact ⟨rfl, rfl⟩

theorem eachInstr_fields (o : UnOp) :
    (eachInstr o).fields = ⟨.each, o.sel, .zero, 0⟩ ∧ (eachInstr o).wellFormed = true := by cases o <;> exact ⟨rfl, rfl⟩

theorem eachwInstr_fields (d : Trit) (o : BinOp) :
    (eachwInstr d o).fields = ⟨.eachw, o.sel, d, 0⟩ ∧ (eachwInstr d o).wellFormed = true := by
  cases o <;> exact ⟨rfl, rfl⟩

theorem zipInstr_fields (o : BinOp) :
    (zipInstr o).fields = ⟨.zip, o.sel, .zero, 0⟩ ∧ (zipInstr o).wellFormed = true := by cases o <;> exact ⟨rfl, rfl⟩

/-- Every SEL up to 14 names a unary digit operation, so a family of them has its command (30_encoding.md R72). -/
theorem exists_unary_of_le {c : OpClass} {f : UnOp → Instr}
    (hf : ∀ o, (f o).fields = ⟨c, o.sel, .zero, 0⟩ ∧ (f o).wellFormed = true) {sel : Nat} (h : sel ≤ 14) :
    ∃ i, (unOp sel).map f = some i ∧ i.fields = ⟨c, sel, .zero, 0⟩ ∧ i.wellFormed = true := by
  obtain ⟨o, ho, rfl⟩ : ∃ o, unOp sel = some o ∧ o.sel = sel := by interval_cases sel <;> exact ⟨_, rfl, rfl⟩
  exact ⟨f o, by rw [ho]; rfl, hf o⟩

/-- Every SEL up to 15 names a binary digit operation, so a family of them has its command (30_encoding.md R73). -/
theorem exists_binary_of_le {c : OpClass} {d : Trit} {f : BinOp → Instr}
    (hf : ∀ o, (f o).fields = ⟨c, o.sel, d, 0⟩ ∧ (f o).wellFormed = true) {sel : Nat} (h : sel ≤ 15) :
    ∃ i, (binOp sel).map f = some i ∧ i.fields = ⟨c, sel, d, 0⟩ ∧ i.wellFormed = true := by
  obtain ⟨o, ho, rfl⟩ : ∃ o, binOp sel = some o ∧ o.sel = sel := by interval_cases sel <;> exact ⟨_, rfl, rfl⟩
  exact ⟨f o, by rw [ho]; rfl, hf o⟩

/-- Fields that pass the checks are those of a well-formed command, the one they assemble to (30_encoding.md R71 to
R75). -/
theorem exists_assemble_of_checked {c : OpClass} {sel : Nat} {dp : BitVec 2} {k : Nat} (hk : k < 64)
    (h : fieldReject c sel dp k = none) :
    ∃ i, assemble c sel ((Trit.ofPair dp).getD .zero) k = some i ∧
      i.fields = ⟨c, sel, (Trit.ofPair dp).getD .zero, k⟩ ∧ i.wellFormed = true := by
  obtain ⟨hsel, -, hd, hcount, hk0⟩ := (fieldReject_eq_none_iff c sel dp k).1 h
  cases c with
  | dun =>
    obtain rfl := hd (by decide)
    obtain rfl := hk0 (by decide)
    exact exists_unary_of_le dunInstr_fields hsel
  | each =>
    obtain rfl := hd (by decide)
    obtain rfl := hk0 (by decide)
    exact exists_unary_of_le eachInstr_fields hsel
  | dbin =>
    obtain rfl := hd (by decide)
    obtain rfl := hk0 (by decide)
    exact exists_binary_of_le dbinInstr_fields hsel
  | zip =>
    obtain rfl := hd (by decide)
    obtain rfl := hk0 (by decide)
    exact exists_binary_of_le zipInstr_fields hsel
  | eachw =>
    obtain rfl := hk0 (by decide)
    exact exists_binary_of_le (eachwInstr_fields _) hsel
  | mov =>
    obtain rfl := hd (by decide)
    obtain rfl := hk0 (by decide)
    exact exists_movInstr_of_le hsel
  | shl | shr =>
    obtain rfl := Nat.le_zero.1 hsel
    obtain rfl := hd (by decide)
    exact ⟨_, rfl, rfl, decide_eq_true (Nat.le_of_lt_succ hk)⟩
  | pack | unpack =>
    obtain rfl := Nat.le_zero.1 hsel
    obtain rfl := hd (by decide)
    exact ⟨_, rfl, rfl, decide_eq_true (hcount (by decide))⟩
  | add | sub | mul | div | cmp | fromdec | todec | cenc | cdec | wenc | wdec =>
    obtain rfl := Nat.le_zero.1 hsel
    obtain rfl := hd (by decide)
    obtain rfl := hk0 (by decide)
    exact ⟨_, rfl, rfl, rfl⟩

theorem assemble_fields (i : Instr) : assemble i.fields.op i.fields.sel i.fields.d i.fields.k = some i := by
  cases i <;> rfl

theorem UnOp.sel_le (o : UnOp) : o.sel ≤ 14 := by cases o <;> decide

theorem BinOp.sel_le (o : BinOp) : o.sel ≤ 15 := by cases o <;> decide

theorem Format.selMax_le (f : Format) : f.selMax ≤ 15 := by cases f <;> decide

/-- The checks on a command word with neither digit nor count (30_encoding.md R70). -/
theorem fieldReject_sel_only {c : OpClass} {sel : Nat} (hs : sel ≤ c.format.selMax) (hf : c.format ≠ .bd) :
    fieldReject c sel 0#2 0 = none :=
  (fieldReject_eq_none_iff c sel 0#2 0).2
    ⟨hs, fun h => absurd h hf, fun _ => rfl, fun _ => Nat.zero_le 40, fun _ => rfl⟩

/-- The checks on a command word of format BD (30_encoding.md R70, R74). -/
theorem fieldReject_digit {c : OpClass} {sel : Nat} (hs : sel ≤ c.format.selMax) (hf : c.format = .bd) (d : Trit) :
    fieldReject c sel d.pair 0 = none :=
  (fieldReject_eq_none_iff c sel d.pair 0).2
    ⟨hs, fun _ => d.pair_ne_illegal, fun h => absurd hf h, fun _ => Nat.zero_le 40, fun _ => rfl⟩

/-- The checks on a command word of format K (30_encoding.md R70, R75). -/
theorem fieldReject_count {c : OpClass} {k : Nat} (hc : c.format = .k) (hk : c = .pack ∨ c = .unpack → k ≤ 40) :
    fieldReject c 0 0#2 k = none :=
  (fieldReject_eq_none_iff c 0 0#2 k).2
    ⟨Nat.zero_le _, fun _ => by decide, fun _ => rfl, hk, fun hf => absurd hc hf⟩

section
variable {i : Instr} (h : i.wellFormed = true)
include h

/-- The counts that the encoding admits fit in K (30_encoding.md R75). -/
theorem fields_k_lt : i.fields.k < 64 := by
  cases i with
  | shl k | shr k => exact Nat.lt_succ_of_le (of_decide_eq_true h)
  | pack n | unpack n => exact Nat.lt_of_le_of_lt (of_decide_eq_true h) (by decide)
  | _ => exact Nat.zero_lt_succ _

/-- The fields of a well-formed command pass the checks (30_encoding.md R70). -/
theorem fields_checked : fieldReject i.fields.op i.fields.sel i.fields.d.pair i.fields.k = none := by
  rcases Machine.instr_family i with ⟨o, rfl⟩ | ⟨o, rfl⟩ | ⟨o, rfl⟩ | ⟨o, d, rfl⟩ | ⟨o, rfl⟩ | hp
  · rw [(dunInstr_fields o).1]
    exact fieldReject_sel_only (c := .dun) o.sel_le (by decide)
  · rw [(dbinInstr_fields o).1]
    exact fieldReject_sel_only (c := .dbin) o.sel_le (by decide)
  · rw [(eachInstr_fields o).1]
    exact fieldReject_sel_only (c := .each) o.sel_le (by decide)
  · rw [(eachwInstr_fields d o).1]
    exact fieldReject_digit (c := .eachw) o.sel_le rfl d
  · rw [(zipInstr_fields o).1]
    exact fieldReject_sel_only (c := .zip) o.sel_le (by decide)
  · cases hp with
    | shl k => exact fieldReject_count (c := .shl) rfl (by simp)
    | shr k => exact fieldReject_count (c := .shr) rfl (by simp)
    | pack n => exact fieldReject_count (c := .pack) rfl fun _ => of_decide_eq_true h
    | unpack n => exact fieldReject_count (c := .unpack) rfl fun _ => of_decide_eq_true h
    | add | sub | mul | div | cmp | fromdec | todec | movAR | movBR | movAR2 | movBR2 | cenc | cdec | wenc | wdec =>
      rfl

theorem fields_sel_lt : i.fields.sel < 32 := by
  have hs := ((fieldReject_eq_none_iff _ _ _ _).1 (fields_checked h)).1
  have hmax := i.fields.op.format.selMax_le
  omega

end

end Sys2Proof

namespace Sys2Proof.Machine

/-! ## The statements -/

/-- Settles O16: the word's fields are the command's, which pass every check and assemble to the command. -/
theorem decodeOfEncode : Obligations.DecodeOfEncode := by
  intro i hi
  obtain ⟨hr, ho, hsel, hd, hk⟩ := i.fields.fields_word (fields_sel_lt hi) (fields_k_lt hi)
  rw [encode, decode_eq_ok_iff, ho, hsel, hd, hk, Trit.ofPair_pair]
  exact ⟨hr, _, opClass_opcode _, fields_checked hi, assemble_fields i⟩

/-- Settles O17: the checked fields of the word are those of the command that they assemble to. -/
theorem encodeOfDecode : Obligations.EncodeOfDecode := by
  intro w i h
  obtain ⟨hr, c, hc, hcheck, ha⟩ := (decode_eq_ok_iff w i).1 h
  obtain ⟨j, hj, hfields, hwf⟩ := exists_assemble_of_checked (kField_lt w) hcheck
  obtain rfl : j = i := Option.some.inj (hj.symm.trans ha)
  refine ⟨?_, hwf⟩
  obtain ⟨-, hbd, hz, -⟩ := (fieldReject_eq_none_iff _ _ _ _).1 hcheck
  have hne : dField w ≠ 0b10#2 := by
    by_cases hf : c.format = .bd
    · exact hbd hf
    · rw [hz hf]; decide
  rw [encode, hfields]
  exact CommandFields.word_eq _ (selField_lt w) (kField_lt w) hr (opcode_of_opClass hc).symm rfl
    (Trit.pair_ofPair hne).symm rfl

/-- Settles O18: fields that pass the checks always assemble to a command, so only the checks decide. -/
theorem legalWordsPassEveryFieldCheck : Obligations.LegalWordsPassEveryFieldCheck := by
  intro w
  have hk : kField w = 0 ↔ w.extractLsb' 13 6 = 0#6 := by
    rw [← BitVec.toNat_inj]; rfl
  have hassembles : (∃ i, decode w = .ok i) ↔ rsvField w = 0#45 ∧ ∃ c, opClass (opField w) = some c ∧
      fieldReject c (selField w) (dField w) (kField w) = none := by
    simp only [decode_eq_ok_iff]
    constructor
    · rintro ⟨i, hr, c, hc, hcheck, -⟩
      exact ⟨hr, c, hc, hcheck⟩
    · rintro ⟨hr, c, hc, hcheck⟩
      obtain ⟨i, hi, -⟩ := exists_assemble_of_checked (kField_lt w) hcheck
      exact ⟨i, hr, c, hc, hcheck, hi⟩
  simp only [hassembles, fieldReject_eq_none_iff, hk]
  rfl

/-- Settles O15: each word decodes by its fields. -/
theorem exampleWordsDecode : Obligations.ExampleWordsDecode := by
  unfold Obligations.ExampleWordsDecode
  decide

end Sys2Proof.Machine
end

section
/-! SUPPORT. The proofs of the statements about every step and about the accesses of the host, after the lemmas that
they share: what a step keeps, and the register at each offset of the window. -/

namespace Sys2Proof.Machine

/-! ## What a step keeps -/

theorem Ends.config_inputs_eq {s t : State} (h : Ends s t) : t.config = s.config ∧ t.inputs = s.inputs := by
  cases h <;> exact ⟨rfl, rfl⟩

/-- Serving an access changes neither the parameters nor the later accesses (20_memory.md R55; log 4, 9). -/
theorem Served.config_inputs_eq {s t : State} (h : Served s t) : t.config = s.config ∧ t.inputs = s.inputs := by
  cases h with
  | command w i hd _ he => exact he.config_inputs_eq
  | reset | reply | ignored | refused | setA | setB | setX | clearSticky | illegal => exact ⟨rfl, rfl⟩

/-- ERR and STICKY hold only what the rules write (10_state.md R28, R31). -/
def State.ErrorsLegal (s : State) : Prop := s.errLegal ∧ s.stickyLegal

theorem errorsLegal_of_eq {s t : State} (h : s.ErrorsLegal) (herr : t.err = s.err ∨ t.err = 0#3)
    (hsticky : t.sticky = s.sticky) : t.ErrorsLegal := by
  obtain ⟨he, hs⟩ := h
  refine ⟨?_, by rw [State.stickyLegal, hsticky]; exact hs⟩
  rcases herr with h | h <;> rw [State.errLegal, h]
  · exact he
  · decide

theorem errorsLegal_of_zero {s : State} (herr : s.err = 0#3) (hsticky : s.sticky = 0#8) : s.ErrorsLegal := by
  rw [State.ErrorsLegal, State.errLegal, State.stickyLegal, herr, hsticky]
  decide

/-- No error that is raised has the code 1 or 7, nor the STICKY bit 0, 1 or 7 (60_exceptions.md R252). -/
theorem RecordsError.errorsLegal {s t : State} (h : RecordsError s t) (hs : s.stickyLegal) : t.ErrorsLegal := by
  obtain ⟨h0, h1, h7⟩ := hs
  have keeps : ∀ j, j < 8 → ¬ (2 ≤ j ∧ j ≤ 6) → s.sticky.getLsbD j = false → t.sticky.getLsbD j = false := by
    intro j hj hraised hclear
    rw [← Bool.not_eq_true, h.sticky_iff hj, hclear]
    rintro (h | ⟨-, h⟩)
    · exact absurd h (by decide)
    · exact hraised h
  refine ⟨?_, keeps 0 (by decide) (by decide) h0, keeps 1 (by decide) (by decide) h1,
    keeps 7 (by decide) (by decide) h7⟩
  obtain ⟨e, he, herr, -⟩ := h
  rw [State.errLegal, herr]
  cases e with
  | parse => exact absurd rfl he
  | arithmetic | domain | codec | range | illegal => decide

theorem Ends.errorsLegal {s t : State} (h : Ends s t) (hs : s.ErrorsLegal) : t.ErrorsLegal := by
  rcases h.succeeds_or_records with ⟨herr, hsticky⟩ | hrec
  · exact errorsLegal_of_eq hs (.inr herr) hsticky
  · exact hrec.errorsLegal hs.2

/-- A host write of STATUS only clears bits (10_state.md R31). -/
theorem clearSticky_errorsLegal {s : State} (hs : s.ErrorsLegal) (v : Word) : (s.clearSticky v).ErrorsLegal := by
  obtain ⟨he, h0, h1, h7⟩ := hs
  refine ⟨he, ?_, ?_, ?_⟩ <;>
    simp only [State.clearSticky_sticky, BitVec.getLsbD_and, h0, h1, h7, Bool.false_and]

theorem Served.errorsLegal {s t : State} (h : Served s t) (hs : s.ErrorsLegal) : t.ErrorsLegal := by
  cases h with
  | reset => exact errorsLegal_of_zero rfl rfl
  | reply | ignored | setA | setB | setX => exact hs
  | refused | illegal => exact (recordsError_raiseError rfl (by decide)).errorsLegal hs.2
  | clearSticky v => exact clearSticky_errorsLegal hs v
  | command w i hd _ he => exact he.errorsLegal hs

/-! ## The register at each offset -/

/-- The register window's map, row by row (20_memory.md R51). -/
theorem readReg_windowReg (s : State) (off : Nat) :
    readReg (windowReg off) s = (if off = 0x00 then loWord s.a else if off = 0x08 then hiWord s.a
      else if off = 0x10 then loWord s.b else if off = 0x18 then hiWord s.b
      else if off = 0x20 then loWord s.r else if off = 0x28 then hiWord s.r
      else if off = 0x30 then loWord s.r2 else if off = 0x38 then hiWord s.r2
      else if off = 0x40 then s.x else if off = 0x48 then s.cmd
      else if off = 0x50 then statusWord s else 0#64) := by
  unfold windowReg
  split
  case h_12 => simp_all [readReg]
  all_goals rfl

/-! ## A half that was written -/

theorem hiWord_congr {t u : TVec} (h : ∀ j, 32 ≤ j → j < 40 → t.get j = u.get j) : hiWord t = hiWord u := by
  rw [hiWord, hiWord, TVec.drop_digits_congr h]

theorem loWord_congr {t u : TVec} (h : ∀ j, j < 32 → t.get j = u.get j) : loWord t = loWord u := by
  refine word_eq_of_pairs fun i hi => ?_
  rw [pairAt_loWord t hi, pairAt_loWord u hi, h i hi]

/-- The pairs of a HI half above the eighth are 0 (10_state.md R24). -/
theorem pairAt_hiWord_of_le (t : TVec) {i : Nat} (hi : 8 ≤ i) : pairAt (hiWord t) i = 0#2 := by
  have hlt := hiWord_lt t
  have hpow : 2 ^ 16 ≤ 4 ^ i := (show 2 ^ 16 = 4 ^ 8 by norm_num).le.trans (Nat.pow_le_pow_right (by decide) hi)
  apply BitVec.eq_of_toNat_eq
  rw [hiWord, pairAt_ofNat _ _ (by omega), Nat.div_eq_of_lt (by omega)]
  rfl

/-- Keeping bits 15:0 keeps the lowest eight pairs. -/
theorem pairAt_low16 (v : Word) (i : Nat) :
    pairAt ((v.extractLsb' 0 16).setWidth 64) i = if i < 8 then pairAt v i else 0#2 := by
  apply BitVec.eq_of_getLsbD_eq
  intro k hk
  split
  · simp [pairAt, BitVec.getLsbD_extractLsb', show 2 * i + k < 64 by omega, show 2 * i + k < 16 by omega]
  · simp [pairAt, BitVec.getLsbD_extractLsb', show ¬ 2 * i + k < 16 by omega]

/-! ## The statements -/

/-- Settles O19: each way of serving an access keeps ERR and STICKY legal, and none changes the tables. -/
theorem stepKeepsInv : Obligations.StepKeepsInv := by
  rintro s t ⟨herr, hsticky, hl⟩ h
  rcases step_next h with ⟨-, rfl⟩ | ⟨e, rest, -, hserved⟩
  · exact ⟨herr, hsticky, hl⟩
  · obtain ⟨herr', hsticky'⟩ := hserved.errorsLegal ⟨herr, hsticky⟩
    refine ⟨herr', hsticky', ?_⟩
    rw [hserved.config_inputs_eq.1]
    exact hl

/-- Settles O20: the reset state has no error recorded, and its tables are the default ones. -/
theorem resetMeetsInv : Obligations.ResetMeetsInv := by
  obtain ⟨herr, hsticky⟩ := errorsLegal_of_zero (s := State.reset) rfl rfl
  exact ⟨herr, hsticky, defaultConfig_lawful⟩

/-- Settles O6: the served event is gone, and serving it leaves the later ones and the parameters. -/
theorem oneAccessIsServedPerStep : Obligations.OneAccessIsServedPerStep := by
  refine ⟨fun s t e rest hi h => ?_, fun s hi => step_idle hi⟩
  rcases step_next h with ⟨hnil, -⟩ | ⟨e', rest', hi', hserved⟩
  · cases hi.symm.trans hnil
  · cases hi.symm.trans hi'
    exact hserved.config_inputs_eq.symm

/-- Settles O2: the reset event is served by `resetRegisters`. -/
theorem resetEventClearsEveryRegister : Obligations.ResetEventClearsEveryRegister :=
  fun _ _ h => step_event h

/-- Settles O7: the read returns the word of the map's row. -/
theorem readsReturnTheMappedRegister : Obligations.ReadsReturnTheMappedRegister :=
  fun s off _ ho ha h => ⟨readReg (windowReg off) s, step_read_word ho ha rfl h, readReg_windowReg s off⟩

/-- Settles O11: the window's row for X. -/
theorem xWriteStoresAnyWord : Obligations.XWriteStoresAnyWord :=
  fun _ _ _ => ⟨fun h => step_write (by decide) (by decide) h, fun h => step_read_word (by decide) (by decide) rfl h⟩

/-- Settles O10: pair by pair, the written half reads as the word and the other half as before. -/
theorem halfWriteThenReadReturnsTheWord : Obligations.HalfWriteThenReadReturnsTheWord := by
  intro t v
  refine ⟨fun h => ⟨word_eq_of_pairs fun i hi => ?_, hiWord_congr fun j hlo hj => ?_⟩,
    fun h => ⟨word_eq_of_pairs fun i _ => ?_, loWord_congr fun j hj => ?_⟩⟩
  · have hget := withHalf_get_inside (t := t) (base := 0) (v := v) hi (by decide)
    rw [zero_add] at hget
    rw [pairAt_loWord _ hi, hget, pair_pairTrit (not_illegalPair_iff.1 h i hi)]
  · exact withHalf_get_outside hj (.inr hlo)
  · rw [pairAt_low16]
    split
    case isTrue hi =>
      rw [pairAt_hiWord _ hi, withHalf_get_inside hi (by decide), pair_pairTrit (not_illegalPair_iff.1 h i hi)]
    case isFalse hi => exact pairAt_hiWord_of_le _ (Nat.le_of_not_lt hi)
  · exact withHalf_get_outside (by omega) (.inl hj)

end Sys2Proof.Machine
end

section
/-! SUPPORT. The proofs of the statements about what a command depends on and what it writes (10_state.md), after the
lemmas that they share: the effect of a command, a function of the registers that it reads. -/

namespace Sys2Proof.Machine

/-! ## Effects, destinations and sources -/

/-- What a command does to any state in which the registers that it reads hold the same: one of the ways `Ends` lists,
with the values written out. -/
inductive Effect where
  | error (e : ErrorClass)
  | writesR (r : TVec) (c : Trit) (ov : Bool)
  | writesR2 (r r2 : TVec) (ov : Bool)
  | writesX (v : Word)
  | writesA (t : TVec)
  | writesB (t : TVec)

/-- The state after an effect. -/
def Effect.apply (f : Effect) (s : State) : State :=
  match f with
  | .error e => s.raiseError e
  | .writesR r c ov => (s.setR r).succeed c ov
  | .writesR2 r r2 ov => ((s.setR r).setR2 r2).succeed .zero ov
  | .writesX v => (s.setX v).succeed .zero false
  | .writesA t => (s.setA t).succeed .zero false
  | .writesB t => (s.setB t).succeed .zero false

/-- Where a successful command puts its result. -/
inductive Dest where
  | r
  | r2
  | x
  | a
  | b

/-- What a command reads: A, B and the tables; R and R2; or X. -/
inductive Source where
  | operands
  | results
  | x

/-- The destination of each command (10_state.md section 1). -/
def destOf : Instr → Dest
  | .mul | .div => .r2
  | .todec | .cenc | .wenc | .pack _ => .x
  | .movAR | .movAR2 => .a
  | .movBR | .movBR2 => .b
  | _ => .r

/-- The source of each command (10_state.md section 7). -/
def sourceOf : Instr → Source
  | .fromdec | .cdec | .wdec | .unpack _ => .x
  | .movAR | .movBR | .movAR2 | .movBR2 => .results
  | _ => .operands

/-- The source that a destination belongs to. -/
def Dest.source : Dest → Source
  | .r => .results
  | .r2 => .results
  | .x => .x
  | .a => .operands
  | .b => .operands

/-- Two states hold the same in what the command reads. -/
def SameSource (i : Instr) (s s' : State) : Prop :=
  match sourceOf i with
  | .operands => s'.a = s.a ∧ s'.b = s.b ∧ s'.config = s.config
  | .results => s'.r = s.r ∧ s'.r2 = s.r2
  | .x => s'.x = s.x

/-- An effect writes the destination, or none. -/
def Effect.Fits : Effect → Dest → Prop
  | .error _, _ => True
  | .writesR _ _ _, d => d = .r
  | .writesR2 _ _ _, d => d = .r2
  | .writesX _, d => d = .x
  | .writesA _, d => d = .a
  | .writesB _, d => d = .b

/-- The command has the effect `f` on every state that holds what `s` holds in the command's source. -/
def HasEffect (i : Instr) (s : State) (f : Effect) : Prop :=
  f.Fits (destOf i) ∧ ∀ s', SameSource i s s' → exec i s' = .next (f.apply s')

theorem destOf_dun (o : UnOp) : destOf (dunInstr o) = .r := by cases o <;> rfl
theorem destOf_dbin (o : BinOp) : destOf (dbinInstr o) = .r := by cases o <;> rfl
theorem destOf_each (o : UnOp) : destOf (eachInstr o) = .r := by cases o <;> rfl
theorem destOf_eachw (d : Trit) (o : BinOp) : destOf (eachwInstr d o) = .r := by cases o <;> rfl
theorem destOf_zip (o : BinOp) : destOf (zipInstr o) = .r := by cases o <;> rfl

theorem sourceOf_dun (o : UnOp) : sourceOf (dunInstr o) = .operands := by cases o <;> rfl
theorem sourceOf_dbin (o : BinOp) : sourceOf (dbinInstr o) = .operands := by cases o <;> rfl
theorem sourceOf_each (o : UnOp) : sourceOf (eachInstr o) = .operands := by cases o <;> rfl
theorem sourceOf_eachw (d : Trit) (o : BinOp) : sourceOf (eachwInstr d o) = .operands := by cases o <;> rfl
theorem sourceOf_zip (o : BinOp) : sourceOf (zipInstr o) = .operands := by cases o <;> rfl

theorem sameSource_of_operands {i : Instr} (hi : sourceOf i = .operands) {s s' : State} :
    SameSource i s s' ↔ s'.a = s.a ∧ s'.b = s.b ∧ s'.config = s.config := by
  rw [SameSource, hi]

theorem SameSource.refl (i : Instr) (s : State) : SameSource i s s := by
  unfold SameSource
  split <;> simp

/-! ## The effect of each command -/

/-- A command whose one check and whose result are functions of its source. -/
theorem hasEffect_of_checked {i : Instr} {s : State} {p : Prop} [Decidable p] {e : ErrorClass} {f : Effect}
    (hf : f.Fits (destOf i))
    (h : ∀ s', SameSource i s s' → exec i s' = if p then fail e s' else .next (f.apply s')) :
    ∃ g, HasEffect i s g := by
  by_cases hp : p
  · exact ⟨.error e, trivial, fun s' hs => by rw [h s' hs, if_pos hp]; rfl⟩
  · exact ⟨f, hf, fun s' hs => by rw [h s' hs, if_neg hp]⟩

theorem exec_dun_effect (o : UnOp) (s : State) : ∃ f, HasEffect (dunInstr o) s f := by
  refine ⟨.writesR (digitsVec ((s.config.unary o).at (s.a.get 0))) ((s.config.unary o).at (s.a.get 0)).carry false,
    destOf_dun o, fun s' hs => ?_⟩
  obtain ⟨ha, -, hc⟩ := (sameSource_of_operands (sourceOf_dun o)).1 hs
  rw [exec_dun, scalarUnary, ha, hc]
  rfl

theorem exec_dbin_effect (o : BinOp) (s : State) : ∃ f, HasEffect (dbinInstr o) s f := by
  have hentry : ∀ s', SameSource (dbinInstr o) s s' → (s'.config.binary o).at (s'.a.get 0) (s'.b.get 0) =
      (s.config.binary o).at (s.a.get 0) (s.b.get 0) := by
    intro s' hs
    obtain ⟨ha, hb, hc⟩ := (sameSource_of_operands (sourceOf_dbin o)).1 hs
    rw [ha, hb, hc]
  cases hd : (s.config.binary o).at (s.a.get 0) (s.b.get 0) with
  | none => exact ⟨.error .domain, trivial, fun s' hs => exec_dbin_undefined ((hentry s' hs).trans hd)⟩
  | some d =>
    exact ⟨.writesR (digitsVec d) d.carry false, destOf_dbin o,
      fun s' hs => exec_dbin_defined ((hentry s' hs).trans hd)⟩

theorem exec_each_effect (o : UnOp) (s : State) : ∃ f, HasEffect (eachInstr o) s f := by
  refine ⟨.writesR (TVec.ofFn fun i => ((s.config.unary o).at (s.a.get i)).value) .zero false, destOf_each o,
    fun s' hs => ?_⟩
  obtain ⟨ha, -, hc⟩ := (sameSource_of_operands (sourceOf_each o)).1 hs
  rw [exec_each, lanesUnary, ha, hc]
  rfl

theorem exec_eachw_effect (o : BinOp) (d : Trit) (s : State) : ∃ f, HasEffect (eachwInstr d o) s f := by
  refine hasEffect_of_checked (p := someLaneUndefined (s.config.binary o) s.a (fun _ => d) = true) (e := .domain)
    (f := .writesR (TVec.ofFn fun i => laneValue (s.config.binary o) (s.a.get i) d) .zero false)
    (destOf_eachw d o) fun s' hs => ?_
  obtain ⟨ha, -, hc⟩ := (sameSource_of_operands (sourceOf_eachw d o)).1 hs
  rw [exec_eachw, lanesBinary, ha, hc]
  rfl

theorem exec_zip_effect (o : BinOp) (s : State) : ∃ f, HasEffect (zipInstr o) s f := by
  refine hasEffect_of_checked (p := someLaneUndefined (s.config.binary o) s.a s.b.get = true) (e := .domain)
    (f := .writesR (TVec.ofFn fun i => laneValue (s.config.binary o) (s.a.get i) (s.b.get i)) .zero false)
    (destOf_zip o) fun s' hs => ?_
  obtain ⟨ha, hb, hc⟩ := (sameSource_of_operands (sourceOf_zip o)).1 hs
  rw [exec_zip, lanesBinary, ha, hb, hc]
  rfl

theorem exec_div_effect (s : State) : ∃ f, HasEffect .div s f := by
  refine hasEffect_of_checked (p := s.b.val = 0) (e := .arithmetic)
    (f := .writesR2 (wrap40 (quotient s.config.divRounding s.a.val s.b.val))
      (wrap40 (s.a.val - quotient s.config.divRounding s.a.val s.b.val * s.b.val)) false) rfl fun s' hs => ?_
  obtain ⟨ha, hb, hc⟩ := hs
  rw [exec, execDiv, ha, hb, hc]
  rfl

theorem exec_plain_effect {i : Instr} (h : Plain i) (s : State) : ∃ f, HasEffect i s f := by
  cases h with
  | add => exact ⟨.writesR _ _ _, rfl, fun s' ⟨ha, hb, _⟩ => by rw [exec, execAdd, ha, hb]; rfl⟩
  | sub => exact ⟨.writesR _ _ _, rfl, fun s' ⟨ha, hb, _⟩ => by rw [exec, execSub, ha, hb]; rfl⟩
  | mul => exact ⟨.writesR2 _ _ _, rfl, fun s' ⟨ha, hb, _⟩ => by rw [exec, execMul, ha, hb]; rfl⟩
  | div => exact exec_div_effect s
  | cmp => exact ⟨.writesR _ _ _, rfl, fun s' ⟨ha, hb, _⟩ => by rw [exec, execCmp, ha, hb]; rfl⟩
  | shl k => exact ⟨.writesR _ _ _, rfl, fun s' ⟨ha, _, _⟩ => by rw [exec, execShl, ha]; rfl⟩
  | shr k => exact ⟨.writesR _ _ _, rfl, fun s' ⟨ha, _, _⟩ => by rw [exec, execShr, ha]; rfl⟩
  | todec => exact ⟨.writesX _, rfl, fun s' ⟨ha, _, _⟩ => by rw [exec, execTodec, ha]; rfl⟩
  | cenc => exact ⟨.writesX _, rfl, fun s' ⟨ha, _, _⟩ => by rw [exec, execCenc, ha]; rfl⟩
  | wenc => exact ⟨.writesX _, rfl, fun s' ⟨ha, _, _⟩ => by rw [exec, execWenc, ha]; rfl⟩
  | pack n => exact ⟨.writesX _, rfl, fun s' ⟨ha, _, _⟩ => by rw [exec, execPack, ha]; rfl⟩
  | movAR => exact ⟨.writesA s.r, rfl, fun s' ⟨hr, _⟩ => by rw [exec, execMovAR, hr]; rfl⟩
  | movBR => exact ⟨.writesB s.r, rfl, fun s' ⟨hr, _⟩ => by rw [exec, execMovBR, hr]; rfl⟩
  | movAR2 => exact ⟨.writesA s.r2, rfl, fun s' ⟨_, hr2⟩ => by rw [exec, execMovAR2, hr2]; rfl⟩
  | movBR2 => exact ⟨.writesB s.r2, rfl, fun s' ⟨_, hr2⟩ => by rw [exec, execMovBR2, hr2]; rfl⟩
  | fromdec =>
    exact hasEffect_of_checked (f := .writesR (wrap40 s.x.toInt) .zero false) rfl fun s' (hx : s'.x = s.x) => by
      rw [exec, execFromdec, hx]; rfl
  | cdec =>
    exact hasEffect_of_checked (f := .writesR (decodeCode 5 s.x.toNat) .zero false) rfl fun s' (hx : s'.x = s.x) => by
      rw [exec, execCdec, hx]; rfl
  | wdec =>
    exact hasEffect_of_checked (f := .writesR (decodeCode 40 s.x.toNat) .zero false) rfl fun s' (hx : s'.x = s.x) => by
      rw [exec, execWdec, hx]; rfl
  | unpack n =>
    exact hasEffect_of_checked (f := .writesR (unpackVec s.x n) .zero false) rfl fun s' (hx : s'.x = s.x) => by
      rw [exec, execUnpack, hx]; rfl

/-- Every command has an effect that its source determines (10_state.md R33). -/
theorem exec_effect (i : Instr) (s : State) : ∃ f, HasEffect i s f := by
  rcases instr_family i with ⟨o, rfl⟩ | ⟨o, rfl⟩ | ⟨o, rfl⟩ | ⟨o, d, rfl⟩ | ⟨o, rfl⟩ | h
  · exact exec_dun_effect o s
  · exact exec_dbin_effect o s
  · exact exec_each_effect o s
  · exact exec_eachw_effect o d s
  · exact exec_zip_effect o s
  · exact exec_plain_effect h s

/-- The inversion form of `exec_effect`. -/
theorem exec_next_effect {i : Instr} {s t : State} (h : exec i s = .next t) :
    ∃ f, HasEffect i s f ∧ t = f.apply s := by
  obtain ⟨f, hf⟩ := exec_effect i s
  rw [hf.2 s (SameSource.refl i s)] at h
  cases h
  exact ⟨f, hf, rfl⟩

/-! ## What an effect leaves -/

/-- No command reads the registers that it writes (10_state.md section 1). -/
theorem sourceOf_ne_dest_source (i : Instr) : sourceOf i ≠ (destOf i).source := by
  cases i <;> exact nofun

/-- A command's source holds the same after the command as before. -/
theorem HasEffect.sameSource_apply {i : Instr} {s : State} {f : Effect} (h : HasEffect i s f) :
    SameSource i s (f.apply s) := by
  have hne := sourceOf_ne_dest_source i
  have hfit := h.1
  unfold SameSource
  cases f with
  | error e => split <;> simp [Effect.apply]
  | writesR | writesR2 | writesX | writesA | writesB =>
    rw [show destOf i = _ from hfit] at hne
    split <;> simp_all [Effect.apply, Dest.source]

theorem ErrorClass.code_toNat (e : ErrorClass) : (BitVec.ofNat 3 e.code).toNat = e.code := by cases e <;> rfl

theorem ErrorClass.code_ne_zero (e : ErrorClass) : BitVec.ofNat 3 e.code ≠ 0#3 := by cases e <;> decide

/-- Applying an effect twice leaves what applying it once does, whatever was taken from the inputs or written to CMD in
between. -/
theorem Effect.apply_again (f : Effect) (s : State) (w : Word) (rest : List HostEvent) (hcmd : s.cmd = w)
    (hreply : s.reply = none) :
    f.apply (((f.apply s).takeInput rest).setCmd w) = { f.apply s with inputs := rest } := by
  subst hcmd
  cases f with
  | error e =>
    have hsticky : (s.sticky ||| 1#8 <<< e.code) ||| 1#8 <<< e.code = s.sticky ||| 1#8 <<< e.code := by
      rw [BitVec.or_assoc, BitVec.or_self]
    simp only [Effect.apply, State.raiseError, State.takeInput, State.setCmd, hsticky, hreply]
  | writesR | writesR2 | writesX | writesA | writesB =>
    simp only [Effect.apply, State.succeed, State.setR, State.setR2, State.setX, State.setA, State.setB,
      State.takeInput, State.setCmd, hreply]

/-- A CMD write has the same effect when the same word is written again (20_memory.md R57). -/
theorem writeCmd_effect (w : Word) (s : State) :
    ∃ f : Effect, writeCmd w s = .next (f.apply (s.setCmd w)) ∧
      ∀ rest, writeCmd w ((f.apply (s.setCmd w)).takeInput rest) =
        .next (f.apply (((f.apply (s.setCmd w)).takeInput rest).setCmd w)) := by
  cases hd : decode w with
  | error e => exact ⟨.error .illegal, by simp [writeCmd, runWord, hd, fail, Effect.apply],
      fun rest => by simp [writeCmd, runWord, hd, fail, Effect.apply]⟩
  | ok i =>
    obtain ⟨f, hf⟩ := exec_effect i (s.setCmd w)
    refine ⟨f, (writeCmd_of_decode hd s).trans (hf.2 _ (SameSource.refl i _)), fun rest => ?_⟩
    exact (writeCmd_of_decode hd _).trans (hf.2 _ hf.sameSource_apply)

theorem Effect.apply_inputs_config (f : Effect) (s : State) :
    (f.apply s).inputs = s.inputs ∧ (f.apply s).config = s.config := by cases f <;> exact ⟨rfl, rfl⟩

theorem destOf_eq_a {i : Instr} (h : destOf i = .a) : i = .movAR ∨ i = .movAR2 := by
  cases i <;> simp_all [destOf]

theorem destOf_eq_b {i : Instr} (h : destOf i = .b) : i = .movBR ∨ i = .movBR2 := by
  cases i <;> simp_all [destOf]

theorem destOf_eq_r2 {i : Instr} (h : destOf i = .r2) : i = .mul ∨ i = .div := by
  cases i <;> simp_all [destOf]

theorem destOf_eq_x {i : Instr} (h : destOf i = .x) : i = .todec ∨ i = .cenc ∨ i = .wenc ∨ ∃ n, i = .pack n := by
  cases i <;> simp_all [destOf]

theorem isMov_of_source_results {i : Instr} (h : sourceOf i = .results) : isMov i = true := by
  cases i <;> simp_all [sourceOf, isMov]

/-! ## The statements -/

/-- Settles O23: the second write meets the first one's source unchanged, so it has the same effect once more. -/
theorem repeatedCommandLeavesTheSameState : Obligations.RepeatedCommandLeavesTheSameState := by
  intro s w rest h
  obtain ⟨f, hfirst, hagain⟩ := writeCmd_effect w (s.takeInput (cmdWrite s w :: rest))
  refine ⟨_, (step_writeCmd h).trans hfirst, ?_⟩
  obtain ⟨hinputs, hconfig⟩ := f.apply_inputs_config ((s.takeInput (cmdWrite s w :: rest)).setCmd w)
  have hnext : writesNext (f.apply ((s.takeInput (cmdWrite s w :: rest)).setCmd w)) 0x48 w rest := by
    rw [writesNext, hinputs, hconfig]
    rfl
  rw [step_writeCmd hnext, hagain rest, f.apply_again _ w rest rfl rfl]

/-- Settles O24: both runs have the one effect that the source determines. -/
theorem commandsDependOnlyOnTheirOperands : Obligations.CommandsDependOnlyOnTheirOperands := by
  intro i s s' t t' ha hb hx hc hmov h h'
  obtain ⟨f, hf, rfl⟩ := exec_next_effect h
  have hsource : SameSource i s s' := by
    unfold SameSource
    split
    · exact ⟨ha, hb, hc⟩
    · exact hmov (isMov_of_source_results ‹_›)
    · exact hx
  rw [hf.2 s' hsource] at h'
  cases h'
  cases f with
  | error e => exact ⟨ha, hb, hx, rfl, .inr ⟨rfl, rfl⟩, .inr ⟨rfl, rfl⟩, fun h0 => absurd h0 e.code_ne_zero⟩
  | writesR => exact ⟨ha, hb, hx, rfl, .inl rfl, .inr ⟨rfl, rfl⟩, fun _ => ⟨rfl, rfl⟩⟩
  | writesR2 => exact ⟨ha, hb, hx, rfl, .inl rfl, .inl rfl, fun _ => ⟨rfl, rfl⟩⟩
  | writesX => exact ⟨ha, hb, rfl, rfl, .inr ⟨rfl, rfl⟩, .inr ⟨rfl, rfl⟩, fun _ => ⟨rfl, rfl⟩⟩
  | writesA => exact ⟨rfl, hb, hx, rfl, .inr ⟨rfl, rfl⟩, .inr ⟨rfl, rfl⟩, fun _ => ⟨rfl, rfl⟩⟩
  | writesB => exact ⟨ha, rfl, hx, rfl, .inr ⟨rfl, rfl⟩, .inr ⟨rfl, rfl⟩, fun _ => ⟨rfl, rfl⟩⟩

/-- Settles O25: an effect changes its destination only. -/
theorem registersChangeOnlyByTheirCommands : Obligations.RegistersChangeOnlyByTheirCommands := by
  intro i s t h
  obtain ⟨f, hf, rfl⟩ := exec_next_effect h
  have hsame : (f.apply s).cmd = s.cmd ∧ (f.apply s).config = s.config ∧ (f.apply s).inputs = s.inputs ∧
      (f.apply s).reply = s.reply := by
    cases f <;> exact ⟨rfl, rfl, rfl, rfl⟩
  refine ⟨fun ha => destOf_eq_a ?_, fun hb => destOf_eq_b ?_, fun hr2 => destOf_eq_r2 ?_,
    fun hx => destOf_eq_x ?_, hsame⟩
  · cases f with
    | writesA => exact hf.1
    | _ => exact absurd rfl ha
  · cases f with
    | writesB => exact hf.1
    | _ => exact absurd rfl hb
  · cases f with
    | writesR2 => exact hf.1
    | _ => exact absurd rfl hr2
  · cases f with
    | writesX => exact hf.1
    | _ => exact absurd rfl hx

/-- Settles O27: neither ERR nor STICKY is a source, and an effect leaves neither but STICKY and its own error. -/
theorem earlierErrorsDoNotAffectACommand : Obligations.EarlierErrorsDoNotAffectACommand := by
  intro i s t e k h
  obtain ⟨f, hf, rfl⟩ := exec_next_effect h
  refine ⟨_, hf.2 _ (SameSource.refl i s), ?_⟩
  cases f with
  | error c =>
    simp only [Effect.apply, State.raiseError, c.code_ne_zero, c.code_toNat, if_false]
  | writesR | writesR2 | writesX | writesA | writesB => rfl

end Sys2Proof.Machine
end

section
/-! SUPPORT. The proof of the statement about C and OV (10_state.md section 6), after the lemmas on how a command can
leave them. -/

namespace Sys2Proof.Machine

/-- A success leaves C non-Zero only if `p` holds and OV set only if `q` does. -/
def SuccessFlags (p q : Prop) (o : Answer) : Prop :=
  ∀ t, o = .next t → t.err = 0#3 → (t.c ≠ .zero → p) ∧ (t.ov = true → q)

theorem fail_successFlags (p q : Prop) (e : ErrorClass) (s : State) : SuccessFlags p q (fail e s) := by
  intro t ht h0
  cases ht
  exact absurd h0 e.code_ne_zero

theorem next_successFlags {p q : Prop} {s : State} (hc : s.c ≠ .zero → p) (hov : s.ov = true → q) :
    SuccessFlags p q (.next s) := by
  intro t ht _
  cases ht
  exact ⟨hc, hov⟩

/-- A next state with C Zero and OV 0. -/
theorem next_clear_successFlags {p q : Prop} {s : State} (hc : s.c = .zero) (hov : s.ov = false) :
    SuccessFlags p q (.next s) :=
  next_successFlags (fun h => absurd hc h) (fun h => absurd (hov.symm.trans h) (by decide))

theorem checked_successFlags {p q r : Prop} [Decidable r] {e : ErrorClass} {s : State} {o : Answer}
    (h : SuccessFlags p q o) : SuccessFlags p q (if r then fail e s else o) := by
  split
  · exact fail_successFlags p q e s
  · exact h

/-- The commands whose rules name a carry (10_state.md R29). -/
def MayCarry (i : Instr) : Prop :=
  i = .dunInc ∨ i = .dunDec ∨ i = .dbinAdd ∨ i = .dbinSub ∨ i = .add ∨ i = .sub

/-- The commands whose rules set OV (10_state.md R30). -/
def MayOverflow (i : Instr) : Prop := i = .add ∨ i = .sub ∨ i = .mul ∨ ∃ k, i = .shl k

theorem exec_dun_successFlags {s : State} (hl : s.config.lawful = true) (o : UnOp) (q : Prop) :
    SuccessFlags (MayCarry (dunInstr o)) q (exec (dunInstr o) s) := by
  rw [exec_dun_afterR]
  refine next_successFlags (fun hc => ?_) (fun h => nomatch h)
  rcases (lawful_unary_carry_iff hl o (s.a.get 0)).1 hc with ⟨rfl, -⟩ | ⟨rfl, -⟩
  · exact .inl rfl
  · exact .inr (.inl rfl)

theorem exec_dbin_successFlags {s : State} (hl : s.config.lawful = true) (o : BinOp) (q : Prop) :
    SuccessFlags (MayCarry (dbinInstr o)) q (exec (dbinInstr o) s) := by
  cases hd : (s.config.binary o).at (s.a.get 0) (s.b.get 0) with
  | none =>
    rw [exec_dbin_undefined hd]
    exact fail_successFlags _ q .domain s
  | some d =>
    rw [exec_dbin_defined hd]
    refine next_successFlags (fun hc => ?_) (fun h => nomatch h)
    rcases (lawful_binary_carry_iff hl hd).1 hc with ⟨rfl, -⟩ | ⟨rfl, -⟩
    · exact .inr (.inr (.inl rfl))
    · exact .inr (.inr (.inr (.inl rfl)))

/-- The lanewise commands write no carry (41_lanewise.md R153, R154). -/
theorem lanesBinary_successFlags (p q : Prop) (t : BinaryTable) (right : Nat → Trit) (s : State) :
    SuccessFlags p q (lanesBinary t right s) :=
  checked_successFlags (next_clear_successFlags rfl rfl)

theorem exec_plain_successFlags {i : Instr} (h : Plain i) (s : State) :
    SuccessFlags (MayCarry i) (MayOverflow i) (exec i s) := by
  cases h with
  | add => exact next_successFlags (fun _ => by simp [MayCarry]) (fun _ => by simp [MayOverflow])
  | sub => exact next_successFlags (fun _ => by simp [MayCarry]) (fun _ => by simp [MayOverflow])
  | mul => exact next_successFlags (fun h => absurd rfl h) (fun _ => by simp [MayOverflow])
  | shl k => exact next_successFlags (fun h => absurd rfl h) (fun _ => by simp [MayOverflow])
  | cmp | shr | todec | cenc | wenc | pack | movAR | movBR | movAR2 | movBR2 => exact next_clear_successFlags rfl rfl
  | div | fromdec | cdec | wdec | unpack => exact checked_successFlags (next_clear_successFlags rfl rfl)

theorem exec_successFlags {s : State} (hl : s.config.lawful = true) (i : Instr) :
    SuccessFlags (MayCarry i) (MayOverflow i) (exec i s) := by
  rcases instr_family i with ⟨o, rfl⟩ | ⟨o, rfl⟩ | ⟨o, rfl⟩ | ⟨o, d, rfl⟩ | ⟨o, rfl⟩ | h
  · exact exec_dun_successFlags hl o _
  · exact exec_dbin_successFlags hl o _
  · rw [exec_each]
    exact next_clear_successFlags rfl rfl
  · rw [exec_eachw]
    exact lanesBinary_successFlags _ _ _ _ s
  · rw [exec_zip]
    exact lanesBinary_successFlags _ _ _ _ s
  · exact exec_plain_successFlags h s

/-- A failed command leaves C and OV as they were (60_exceptions.md R256). -/
theorem Ends.flags_of_error {s t : State} (h : Ends s t) (herr : t.err ≠ 0#3) : t.c = s.c ∧ t.ov = s.ov := by
  rw [h.eq_afterError herr]
  exact ⟨rfl, rfl⟩

/-! ## The statements -/

/-- Settles O26: a success leaves the flags that its command's rule names, and an error leaves the flags alone. -/
theorem carryAndOverflowComeFromTheirCommands : Obligations.CarryAndOverflowComeFromTheirCommands := by
  intro i s t hl h
  have hflags := exec_successFlags hl i t h
  exact ⟨fun h0 => (hflags h0).1, fun h0 => (hflags h0).2, (exec_next h).flags_of_error⟩

end Sys2Proof.Machine
end

section
/-! SUPPORT. The proofs of the statements about the values of trit vectors (00_scope.md section 5). -/

namespace Sys2Proof

/-- A value that fits in `n` trits is kept by `wrap_n`: no other integer congruent to it fits (00_scope.md R7). -/
theorem digitsVal_wrapDigits_of_small {n : Nat} {x : Int} (h : 2 * x.natAbs < 3 ^ n) :
    digitsVal (wrapDigits n x) = x := by
  have hb := digitsVal_bounds (wrapDigits n x)
  rw [wrapDigits_length] at hb
  have hx : 2 * |x| < 3 ^ n := by rw [Int.abs_eq_natAbs]; exact_mod_cast h
  have hdvd : (3 : Int) ^ n ∣ digitsVal (wrapDigits n x) - x := Int.dvd_of_emod_eq_zero (digitsVal_wrapDigits n x)
  refine sub_eq_zero.1 (Int.eq_zero_of_abs_lt_dvd hdvd ?_)
  rw [abs_lt]
  have hle := le_abs_self x
  have hge := neg_abs_le x
  omega

end Sys2Proof

namespace Sys2Proof.Machine

/-! ## The statements -/

/-- Settles O28: the bounds, that congruent vectors are equal, and that `wrap40` reaches every integer in range. -/
theorem vectorsHoldEachIntegerOnce : Obligations.VectorsHoldEachIntegerOnce := by
  refine ⟨TVec.val_bounds, fun t u h => TVec.eq_of_digits (digits_eq_of_congruent ?_ ?_),
    fun x h₁ h₂ => ⟨wrap40 x, wrap40_val_of_small h₁ h₂⟩⟩
  · rw [t.size_eq, u.size_eq]
  · rw [show digitsVal t.digits = digitsVal u.digits from h, sub_self, Int.zero_emod]

/-- Settles O29: the length and the congruence of `wrap_n`, and that no other multiple of 3^n fits. -/
theorem wrapIsCongruentAndExactInRange : Obligations.WrapIsCongruentAndExactInRange :=
  fun n x => ⟨wrapDigits_length n x, digitsVal_wrapDigits n x, digitsVal_wrapDigits_of_small⟩

end Sys2Proof.Machine
end

section
/-! SUPPORT. The proofs of the statements about the values that the digit commands leave (40_digit_lut.md), after the
lemmas that they share. -/

namespace Sys2Proof

/-- Without a carry, the value digit is the whole result (40_digit_lut.md R103). -/
theorem Digits.sum_of_no_carry {d : Digits} (h : d.carry = .zero) :
    d.value.toInt + 3 * d.carry.toInt = d.value.toInt := by
  simp [h, Trit.toInt]

/-- A non-Zero digit is its own reciprocal (40_digit_lut.md R133). -/
theorem Trit.mul_mul_self {a b : Trit} (hb : b ≠ .zero) : a.toInt * b.toInt * b.toInt = a.toInt := by
  cases b with
  | zero => exact absurd rfl hb
  | neg | pos => simp [Trit.toInt]

end Sys2Proof

namespace Sys2Proof.Machine

/-- An operation whose table entry has the value `n`, in two digits, leaves `n` in R (40_digit_lut.md R103). -/
theorem exec_dbin_val {s : State} {o : BinOp} {n : Int}
    (h : ∃ d, (s.config.binary o).at (s.a.get 0) (s.b.get 0) = some d ∧ d.value.toInt + 3 * d.carry.toInt = n) :
    ∃ t, exec (dbinInstr o) s = .next t ∧ t.r.val = n := by
  obtain ⟨d, hd, hval⟩ := h
  exact ⟨_, exec_dbin_defined hd, (digitsVec_val d).trans hval⟩

/-! ## The default tables, entry by entry -/

theorem defaultConfig_unary_value (o : UnOp) (a : Trit) :
    ((defaultConfig.unary o).at a).value.toInt = unaryFormula o a.toInt := by
  cases o <;> cases a <;> rfl

theorem defaultConfig_binary_value {o : BinOp} {a b : Trit} {d : Digits}
    (h : (defaultConfig.binary o).at a b = some d) : d.value.toInt = binaryFormula o a.toInt b.toInt := by
  cases o <;> cases a <;> cases b <;> cases h <;> rfl

/-! ## The statements -/

/-- Settles O32: each table's entry, in two digits, is the integer result. -/
theorem digitArithmeticLeavesTheIntegerResult : Obligations.DigitArithmeticLeavesTheIntegerResult := by
  intro s hl
  obtain ⟨hadd, hsub, hmul, hdiv⟩ := lawful_arith hl (s.a.get 0) (s.b.get 0)
  have hneg := lawful_unary_carry hl (o := .negation) (by decide) (by decide) (s.a.get 0)
  refine ⟨⟨_, exec_dun_afterR .inc s, (digitsVec_val _).trans (lawful_inc hl _)⟩,
    ⟨_, exec_dun_afterR .dec s, (digitsVec_val _).trans (lawful_dec hl _)⟩,
    ⟨_, exec_dun_afterR .negation s,
      (digitsVec_val _).trans ((Digits.sum_of_no_carry hneg).trans (lawful_negation hl _))⟩,
    exec_dbin_val (o := .add) hadd, exec_dbin_val (o := .sub) hsub, exec_dbin_val (o := .mul) hmul, fun hb => ?_⟩
  obtain ⟨d, hd⟩ := Option.ne_none_iff_exists'.1 (lawful_div_defined hl (s.a.get 0) hb)
  obtain ⟨t, ht, hval⟩ := exec_dbin_val (o := .div) ⟨d, hd, hdiv d hd⟩
  exact ⟨t, ht, by rw [hval, Trit.mul_mul_self hb]⟩

/-- Settles O33: table by table, entry by entry. -/
theorem defaultTablesFollowTheirFormulas : Obligations.DefaultTablesFollowTheirFormulas := by
  intro s hs
  refine ⟨fun o => ⟨_, exec_dun_afterR o s, ?_⟩, fun o hdiv => ?_⟩
  · rw [hs]
    exact (congrArg Trit.toInt (digitsVec_get_zero _)).trans (defaultConfig_unary_value o _)
  · have hdef : (s.config.binary o).at (s.a.get 0) (s.b.get 0) ≠ none := fun hn => by
      rw [hs] at hn
      obtain ⟨ho, hb⟩ := (lawful_binary_undefined defaultConfig_lawful o _ _).1 hn
      exact hdiv ho hb
    obtain ⟨d, hd⟩ := Option.ne_none_iff_exists'.1 hdef
    refine ⟨_, exec_dbin_defined hd, ?_⟩
    rw [hs] at hd
    exact (congrArg Trit.toInt (digitsVec_get_zero d)).trans (defaultConfig_binary_value hd)

end Sys2Proof.Machine
end

section
/-! SUPPORT. The proof of the statement about `mul` (42_arith.md R172), after the lemmas on the halves of a product. -/

namespace Sys2Proof

theorem TVec.val_eq_zero_iff (t : TVec) : t.val = 0 ↔ t = zero40 := by
  constructor
  · intro h
    exact TVec.eq_of_digits (List.eq_replicate_iff.2 ⟨t.size_eq, (digitsVal_eq_zero_iff t.digits).1 h⟩)
  · rintro rfl
    exact digitsVal_replicate_zero 40

/-- The high part is not Zero40 exactly when the whole is beyond what the low part reaches (42_arith.md R172). -/
theorem high_ne_zero40_iff {lo hi : TVec} {p : Int} (h : lo.val + 3 ^ 40 * hi.val = p) :
    hi ≠ zero40 ↔ p < -6078832729528464400 ∨ 6078832729528464400 < p := by
  have hlo := lo.val_bounds
  rw [Ne, ← TVec.val_eq_zero_iff]
  unfold maxVal at hlo
  norm_num at h
  omega

end Sys2Proof

namespace Sys2Proof.Machine

theorem halves_digits (p : Int) : (lowHalf p).digits ++ (highHalf p).digits = wrapDigits 80 p :=
  List.take_append_drop 40 (wrapDigits 80 p)

/-- The product of two vectors fits in 80 trits (42_arith.md R172). -/
theorem halves_val {x y : TVec} :
    (lowHalf (x.val * y.val)).val + 3 ^ 40 * (highHalf (x.val * y.val)).val = x.val * y.val := by
  have hx := x.val_bounds
  have hy := y.val_bounds
  have habs : (x.val * y.val).natAbs ≤ 6078832729528464400 * 6078832729528464400 := by
    rw [Int.natAbs_mul]
    unfold maxVal at hx hy
    exact Nat.mul_le_mul (by omega) (by omega)
  have hval := digitsVal_wrapDigits_of_small (n := 80) (x := x.val * y.val)
    (Nat.lt_of_le_of_lt (Nat.mul_le_mul_left 2 habs) (by norm_num))
  rwa [← halves_digits, digitsVal_append, TVec.digits_length] at hval

/-- The product as the schoolbook sum of LUT_mul's entries (42_arith.md R172). -/
theorem product_eq_lut_sum {c : Config} (hl : c.lawful = true) (x y : TVec) :
    x.val * y.val = ∑ i ∈ Finset.range 40, ∑ j ∈ Finset.range 40,
      (laneValue c.lutMul (x.get i) (y.get j)).toInt * 3 ^ (i + j) := by
  rw [x.val_eq_sum, y.val_eq_sum, Finset.sum_mul_sum]
  refine Finset.sum_congr rfl fun i _ => Finset.sum_congr rfl fun j _ => ?_
  obtain ⟨-, -, ⟨d, hd, -⟩, -⟩ := lawful_arith hl (x.get i) (y.get j)
  rw [laneValue_of_some hd, lawful_mul_value hl hd, pow_add]
  ring

/-! ## The statements -/

/-- Settles O40: the 80 digits hold the product exactly, and its high half says whether it left the range. -/
theorem mulKeepsTheExactProduct : Obligations.MulKeepsTheExactProduct := by
  intro s
  refine ⟨⟨afterR2 s (lowHalf (s.a.val * s.b.val)) (highHalf (s.a.val * s.b.val))
      (decide (highHalf (s.a.val * s.b.val) ≠ zero40)), rfl, rfl, halves_digits _,
    halves_val, eq_wrap40_of_add_mul halves_val, ?_⟩, fun hl => product_eq_lut_sum hl s.a s.b⟩
  simpa only [afterR2, decide_eq_true_eq] using high_ne_zero40_iff (halves_val (x := s.a) (y := s.b))

end Sys2Proof.Machine
end

section
/-! SUPPORT. The proof of the statement about the value forms that the spec marks as its own inferences (42_arith.md,
44_codec.md), after the lemmas on the parts of a value and on codes as values. -/

namespace Sys2Proof

/-! ## The parts of a value -/

/-- A value is that of its low `k` digits and, `k` positions up, of the rest (00_scope.md R5). -/
theorem digitsVal_take_add_drop (l : List Trit) (k : Nat) :
    digitsVal (l.take k) + 3 ^ k * digitsVal (l.drop k) = digitsVal l := by
  rcases Nat.le_total k l.length with hk | hk
  · conv_rhs => rw [← List.take_append_drop k l, digitsVal_append, List.length_take, Nat.min_eq_left hk]
  · rw [List.take_of_length_le hk, List.drop_eq_nil_of_le hk, digitsVal, mul_zero, add_zero]

/-- The low `k` digits are less than half of position `k` (00_scope.md R6). -/
theorem natAbs_digitsVal_take_lt (l : List Trit) (k : Nat) : 2 * (digitsVal (l.take k)).natAbs < 3 ^ k := by
  have hb := digitsVal_bounds (l.take k)
  have hpow : (3 : Int) ^ (l.take k).length ≤ 3 ^ k :=
    pow_le_pow_right₀ (by decide) (List.length_take_le k l)
  have habs : |2 * digitsVal (l.take k)| < 3 ^ k := abs_lt.2 ⟨by omega, by omega⟩
  zify
  rwa [abs_mul, abs_two] at habs

/-- With a non-Zero top digit a vector's value is beyond half of 3^39 (41_lanewise.md R152). -/
theorem TVec.le_natAbs_val_of_top_ne_zero {t : TVec} (h : t.get 39 ≠ .zero) : 3 ^ 39 + 1 ≤ 2 * t.val.natAbs := by
  have hsplit := digitsVal_take_add_drop t.digits 39
  have hlow := natAbs_digitsVal_take_lt t.digits 39
  have htop : t.digits.drop 39 = [t.get 39] := by
    rw [List.drop_eq_getElem_cons (by simp), ← t.get_eq_getElem (by decide), List.drop_eq_nil_of_le (by simp)]
  rw [htop, digitsVal, digitsVal, mul_zero, add_zero] at hsplit
  have hb := (t.get 39).toInt_bounds
  have hne := (t.get 39).ne_zero_iff.1 h
  rw [TVec.val, ← hsplit]
  norm_num at hlow ⊢
  omega

end Sys2Proof

namespace Sys2Proof.Machine

/-! ## The sign of a comparison -/

/-- The scan of `cmp` gives the sign of the difference: the digits below the first differing one cannot outweigh it
(42_arith.md R174). The lists are most significant first. -/
theorem scanCompare_toInt {l m : List Trit} (hl : l.length = m.length) :
    (scanCompare l m).toInt = (digitsVal l.reverse - digitsVal m.reverse).sign := by
  induction l generalizing m with
  | nil =>
    obtain rfl := List.length_eq_zero_iff.1 hl.symm
    rfl
  | cons x l ih =>
    cases m with
    | nil => simp at hl
    | cons y m =>
      have hlen : l.length = m.length := by simpa using hl
      have hx := digitsVal_bounds l.reverse
      have hy := digitsVal_bounds m.reverse
      rw [List.length_reverse] at hx hy
      rw [← hlen] at hy
      have hdiff : digitsVal (x :: l).reverse - digitsVal (y :: m).reverse =
          digitsVal l.reverse - digitsVal m.reverse + 3 ^ l.length * (x.toInt - y.toInt) := by
        simp only [List.reverse_cons, digitsVal_append, List.length_reverse, ← hlen, digitsVal, mul_zero, add_zero]
        ring
      by_cases hxy : x = y
      · rw [scanCompare, if_pos hxy, hdiff, ih hlen, hxy, sub_self, mul_zero, add_zero]
      · rw [scanCompare, if_neg hxy, hdiff]
        split
        case isTrue hgt =>
          refine (Int.sign_eq_one_of_pos ?_).symm
          have : 3 ^ l.length * 1 ≤ (3 : Int) ^ l.length * (x.toInt - y.toInt) :=
            mul_le_mul_of_nonneg_left (by omega) (by positivity)
          omega
        case isFalse hle =>
          have hne : x.toInt ≠ y.toInt := fun h => hxy (Trit.toInt_injective h)
          refine (Int.sign_eq_neg_one_of_neg ?_).symm
          have : (3 : Int) ^ l.length * (x.toInt - y.toInt) ≤ 3 ^ l.length * (-1) :=
            mul_le_mul_of_nonneg_left (by omega) (by positivity)
          omega

/-! ## The kept digits of `shr` -/

theorem shiftRight_digits (t : TVec) (k : Nat) :
    (shiftRight t k).digits = t.digits.drop k ++ List.replicate (min k 40) .zero := by
  refine List.ext_getElem (by simp; omega) fun i hi _ => ?_
  have h40 : i < 40 := by simpa using hi
  rw [← TVec.get_eq_getElem _ h40, shiftRight, TVec.get_ofFn _ h40]
  by_cases hk : i + k ≤ 39
  · rw [if_pos hk, List.getElem_append_left (by simp; omega), List.getElem_drop, t.get_eq_getElem (by omega)]
    simp only [add_comm]
  · rw [if_neg hk, List.getElem_append_right (by simp; omega), List.getElem_replicate]

/-- `shr k` keeps the value of the digits from `k` on (42_arith.md R176). -/
theorem shiftRight_val (t : TVec) (k : Nat) : (shiftRight t k).val = digitsVal (t.digits.drop k) := by
  rw [TVec.val, shiftRight_digits, digitsVal_append, digitsVal_replicate_zero, mul_zero, add_zero]

/-! ## Codes as values -/

theorem codeOf_take_eq_sum_add (t : TVec) {m : Nat} (hm : m ≤ 40) :
    (codeOf (t.digits.take m) : Int) =
      (∑ i ∈ Finset.range m, (t.get i).toInt * 3 ^ i) + ∑ i ∈ Finset.range m, 3 ^ i := by
  rw [codeOf_take_eq_sum t hm, ← Finset.sum_add_distrib]
  exact Finset.sum_congr rfl fun i _ => by ring

/-! ## The top lane of B under `zip.div` -/

/-- `zip.div` fails when the top lane of B is Zero, as when any other is (41_lanewise.md R152, R155). -/
theorem zipDiv_top_ne_zero {s t : State} (hl : s.config.lawful = true) (ht : exec .zipDiv s = .next t)
    (herr : t.err = 0#3) : s.b.get 39 ≠ .zero := by
  intro hz
  rw [(lanewiseDivFailsWhole s hl).2 ⟨39, by decide, hz⟩] at ht
  cases ht
  exact absurd herr (show 3#3 ≠ 0#3 by decide)

/-! ## The statements -/

/-- Settles O45: part by part, from the top lane of B, the carry out of the sweep, the scan, the dropped digits, and the
codes as values. -/
theorem derivedValueForms : Obligations.DerivedValueForms := by
  intro s
  refine ⟨fun hl t ht herr => TVec.le_natAbs_val_of_top_ne_zero (zipDiv_top_ne_zero hl ht herr),
    ⟨_, rfl, eq_wrap40_of_add_mul (sweepDigits_add_val s.a s.b),
      eq_sub_of_add_eq' (sweepDigits_add_val s.a s.b)⟩,
    ⟨_, rfl, ?_⟩, fun k => ⟨_, rfl, ?_⟩, ⟨_, exec_cenc s, ?_⟩, ⟨_, exec_wenc s, ?_⟩⟩
  · refine (congrArg Trit.toInt (TVec.get_ofFn _ (by decide))).trans ?_
    rw [if_pos rfl, scanCompare_toInt (by simp), List.reverse_reverse, List.reverse_reverse]
    rfl
  · have hsplit := digitsVal_take_add_drop s.a.digits k
    have hlow := natAbs_digitsVal_take_lt s.a.digits k
    rw [← shiftRight_val] at hsplit
    rw [eq_sub_of_add_eq hsplit] at hlow
    exact hlow
  · refine (congrArg Nat.cast (toNat_ofNat_codeOf_take s.a (m := 5) (by decide))).trans ?_
    exact codeOf_take_eq_sum_add s.a (by decide)
  · refine (congrArg Nat.cast (toNat_ofNat_codeOf_take s.a le_rfl)).trans ?_
    rw [codeOf_take_eq_sum_add s.a le_rfl, ← TVec.val_eq_sum]
    rfl

end Sys2Proof.Machine
end

section
/-! SUPPORT. The proofs of the statements about the codec's round trips (44_codec.md R226). -/

namespace Sys2Proof.Machine

/-- The code of the vector that a code in range decodes to is that code, as a word (44_codec.md R226). -/
theorem ofNat_codeOf_decodeCode {m : Nat} {v : Word} (hm : m ≤ 40) (hv : v.toNat < 3 ^ m) :
    BitVec.ofNat 64 (codeOf ((decodeCode m v.toNat).digits.take m)) = v := by
  rw [codeOf_decodeCode hm hv, BitVec.ofNat_toNat, BitVec.setWidth_eq]

/-- Decoding the code of the low `m` trits from a word gives those trits back (44_codec.md R226). -/
theorem decodeCode_toNat_codeOf_get (t : TVec) {m i : Nat} (hm : m ≤ 40) (hi : i < m) :
    (decodeCode m (BitVec.ofNat 64 (codeOf (t.digits.take m))).toNat).get i = t.get i := by
  rw [toNat_ofNat_codeOf_take t hm, decodeCode_codeOf_get t hm hi]

/-! ## The statements -/

/-- Settles O55: `wenc` leaves a code in range, and code and digits determine each other. -/
theorem wordCodecRoundTrips : Obligations.WordCodecRoundTrips := by
  refine ⟨fun s => ?_, fun s h => ⟨_, _, _, exec_wdec_in_range h, exec_movAR _, exec_wenc _,
    ofNat_codeOf_decodeCode le_rfl h⟩⟩
  have hlt := (toNat_ofNat_codeOf_take s.a le_rfl).trans_lt (codeOf_take_lt s.a le_rfl)
  exact ⟨_, _, exec_wenc s, exec_wdec_in_range hlt,
    TVec.eq_of_get fun i hi => decodeCode_toNat_codeOf_get s.a le_rfl hi⟩

/-- Settles O56: the same with the low five trits, and Zero above them. -/
theorem chunkCodecRoundTrips : Obligations.ChunkCodecRoundTrips := by
  refine ⟨fun s => ?_, fun s h => ⟨_, _, _, exec_cdec_in_range h, exec_movAR _, exec_cenc _,
    ofNat_codeOf_decodeCode (by decide) (Nat.lt_succ_of_le h)⟩⟩
  have hlt := (toNat_ofNat_codeOf_take s.a (m := 5) (by decide)).trans_lt (codeOf_take_lt s.a (by decide))
  refine ⟨_, _, exec_cenc s, exec_cdec_in_range (Nat.le_of_lt_succ hlt),
    fun i hi => decodeCode_toNat_codeOf_get s.a (by decide) hi, fun i h5 h40 => ?_⟩
  exact (decodeCode_get 5 _ h40).trans (if_neg h5.not_gt)

/-- Settles O57: `unpack n` refuses nothing that `pack n` stored, and decodes the trits that it was given. -/
theorem packThenUnpackReturnsTheTrits : Obligations.PackThenUnpackReturnsTheTrits := by
  intro n s hn
  have hlow : ∀ i, i < n → (unpackVec (packWord s.a n) n).get i = s.a.get i :=
    fun i hi => unpackVec_packWord_get s.a hn hi
  refine ⟨_, _, exec_pack n s, exec_unpack_accepted (Bool.not_eq_true _ ▸ packWord_not_refused s.a hn), rfl, hlow,
    fun hz => TVec.eq_of_get fun i hi => ?_⟩
  by_cases hin : i < n
  · exact hlow i hin
  · exact (unpackVec_get _ n hi).trans ((if_neg hin).trans (hz i (Nat.le_of_not_lt hin) hi).symm)

/-- Settles O58: the two codes of Zero40, computed. -/
theorem wordCodeIsNotTheChunkLayout : Obligations.WordCodeIsNotTheChunkLayout := by
  intro s ha
  have hword : BitVec.ofNat 64 (codeOf (zero40.digits.take 40)) = 0x545C5A29148FF410#64 := by decide +kernel
  have hchunks : packWord zero40 40 = 0x7979797979797979#64 := by decide +kernel
  rw [exec_wenc, exec_pack, ha, hword, hchunks]
  exact ⟨rfl, rfl⟩

end Sys2Proof.Machine
end
